-- ==== Sys2Proof/Word.lean ====
section
/-! DEFINITION. The two word types of the engine (00_scope.md R9): bytes and 32-bit words, all unsigned. -/

namespace Sys2Proof

/-- An unsigned 8-bit value, `u8` of R9. -/
abbrev Byte := BitVec 8

/-- An unsigned 32-bit value, `u32` of R9: a register, a command word or a binary32 bit pattern. -/
abbrev Word := BitVec 32

end Sys2Proof
end

