-- ==== Sys2Proof/Config.lean ====
section
/-! DEFINITION. The constants of 00_scope.md R6 and R7, and the free values of 93_implementation_defined.md Part 1.
A free value is an opaque constant: nothing in Lean can evaluate it, so a claim holds whatever it is. -/

namespace Sys2Proof.Config

/-- RX_CAP, the receive buffer's capacity and the `max_len` of every read (R7, D34). -/
def rxCap : Nat := 255

/-- TX_CAP, the transmit buffer's capacity (R7). -/
def txCap : Nat := 14

/-- F_IN, the inbound (telemetry) frame length (R6). -/
def frameIn : Nat := 13

/-- F_OUT, the outbound (command) frame length (R6). -/
def frameOut : Nat := 14

/-- SYNC_IN, byte 0 of a telemetry frame (R6). -/
def syncIn : Byte := 0x5A#8

/-- SYNC_OUT, byte 0 of a command frame (R6). -/
def syncOut : Byte := 0xA5#8

/-- CRC_INIT, the initial accumulator value (R6). -/
def crcInit : Byte := 0xFF#8

/-- CRC_POLY with its bits reversed (R6): the constant of the reflected shift register. -/
def crcPolyReflected : Byte := 0x8C#8

/-- FREE VALUE (U1, U2; log 1). `resetByte n a`: the byte that buffer offset `a` holds after the `n`-th reset
event, until something writes it. -/
opaque resetByte : Nat → Nat → Byte

/-- FREE VALUE (U4; log 4). Whether read request number `n` is answered with bytes (`false`: with `Err`). -/
opaque freeReadOk : Nat → Bool

/-- FREE VALUE (U4; log 4). The bytes of the answer to read request number `n`, oldest first, before the bound 255. -/
opaque freeReadBytes : Nat → List Byte

/-- FREE VALUE (U5; log 5). Whether write request number `n` is answered `Ok` (`false`: `Err`). -/
opaque freeWriteOk : Nat → Bool

/-- FREE VALUE (U6; log 5). How many bytes a write answered `Err` handed over, before the bound by the request's length. -/
opaque freeWriteSent : Nat → Nat

/-- FREE VALUE (U15; log 6). Whether step number `n` is the engine's (`false`: the host's). -/
opaque freeTurn : Nat → Bool

/-- PARAMETER (U13; log 11). BLOCK_BASE, where the platform puts the block in its address space (20_memory.md R60). -/
opaque blockBase : Nat

end Sys2Proof.Config
end

