-- ==== Sys2Proof/Machine/HostSyntax.lean ====
section
/-! DEFINITION. Host programs (30_encoding.md R90, R91) and the admitted host access forms (20_memory.md R61). -/

namespace Sys2Proof.Machine

/-- A statement of a host program (R90). Offsets are block offsets, labels are numbers. -/
inductive HostStmt where
  | wr32 (off : Nat) (v : Word)
  | wr8 (off : Nat) (v : Word)
  | rd32 (off : Nat)
  | rd8 (off : Nat)
  | brne (off : Nat) (m v : Word) (l : Nat)
  | breq (off : Nat) (m v : Word) (l : Nat)
  | label (l : Nat)
  | halt
  deriving DecidableEq, Repr

/-- The host access forms the block admits (R61): `n` bytes at block offset `a`. -/
def admitted (a n : Nat) : Bool :=
  if a < 0x100 then n == 4 && a % 4 == 0
  else if a < 0x400 then n == 1 || (n == 4 && a % 4 == 0)
  else false

/-- The access a statement makes, as its offset and width; `none` for a label and for HALT (R90). -/
def HostStmt.access? : HostStmt → Option (Nat × Nat)
  | .wr32 off _ => some (off, 4)
  | .wr8 off _ => some (off, 1)
  | .rd32 off => some (off, 4)
  | .rd8 off => some (off, 1)
  | .brne off _ _ _ => some (off, 4)
  | .breq off _ _ _ => some (off, 4)
  | .label _ => none
  | .halt => none

/-- The label a statement branches to. -/
def HostStmt.target? : HostStmt → Option Nat
  | .brne _ _ _ l => some l
  | .breq _ _ _ l => some l
  | _ => none

/-- The place of label `l` in a host program: the index of its first definition. -/
def findLabel (l : Nat) : List HostStmt → Option Nat
  | [] => none
  | st :: rest => if st = .label l then some 0 else (findLabel l rest).map (· + 1)

/-! The symbols of R91: register and window offsets. -/

def offCmd : Nat := 0x000
def offStatus : Nat := 0x004
def offArg : Nat := 0x008
def offRxLen : Nat := 0x00C
def offCrcResult : Nat := 0x010
def offFrameOffset : Nat := 0x014
def offTlmGainYaw : Nat := 0x018
def offTlmGainPitch : Nat := 0x01C
def offTlmFields : Nat := 0x020
def offCmdPitch : Nat := 0x024
def offCmdYaw : Nat := 0x028
def offCmdDistance : Nat := 0x02C
def offHandoff : Nat := 0x030
def offTxLen : Nat := 0x034
def offRx : Nat := 0x100
def offTx : Nat := 0x200

/-! The pseudo-instructions of R91. A "fresh label" is the argument `l`. -/

/-- `OP mnem`, given the mnemonic's command word. -/
def pseudoOp (w : Word) : List HostStmt := [.wr32 offCmd w]

/-- `WAITDONE`. -/
def pseudoWaitDone (l : Nat) : List HostStmt := [.label l, .brne offStatus 0x2#32 0x2#32 l]

/-- `CLRDONE`. -/
def pseudoClrDone : List HostStmt := [.wr32 offStatus 0x2#32]

/-- `SETARG o, l`. -/
def pseudoSetArg (o len : Word) : List HostStmt := [.wr32 offArg ((len <<< 8) ||| o)]

/-- `POSTREADY`. -/
def pseudoPostReady : List HostStmt := [.wr32 offHandoff 0x1#32]

/-- `WAITCDONE`. -/
def pseudoWaitCdone (l : Nat) : List HostStmt := [.label l, .brne offHandoff 0x2#32 0x2#32 l]

/-- `CLRCDONE`. -/
def pseudoClrCdone : List HostStmt := [.wr32 offHandoff 0x2#32]

/-- `RUN mnem`: `OP mnem` then `WAITDONE`. -/
def pseudoRun (w : Word) (l : Nat) : List HostStmt := pseudoOp w ++ pseudoWaitDone l

end Sys2Proof.Machine
end

