-- ==== Sys2Proof/Syntax.lean ====
section
/-! DEFINITION. The instructions: the eight operations of spec/opcode_table.json (30_encoding.md R81). -/

namespace Sys2Proof

/-- An operation of the engine, one constructor per row of the opcode table.
The command word has no operand fields (R80): operands come from registers (R83). -/
inductive Instr where
  | nop
  | crc8
  | decode
  | scan
  | encode
  | rxRead
  | txWrite
  | cycle
  deriving DecidableEq, Repr

end Sys2Proof
end

