-- ==== Sys2Proof/WellFormed.lean ====
section
/-! DEFINITION. What a legal command word (30_encoding.md R80, R82) and a legal host program (R61, R90) are. -/

namespace Sys2Proof

/-- A command word split into its two fields (R80). -/
structure CommandWord where
  op : BitVec 4
  mbz : BitVec 28
  deriving DecidableEq, Repr

/-- A command word is legal when OP is below 8 and MBZ is zero (R82). -/
def CommandWord.wf (c : CommandWord) : Bool := c.op.toNat < 8 && c.mbz == 0#28

/-- Every operation is well-formed: none has an operand field (R80). -/
def Instr.wf : Instr → Bool
  | .nop | .crc8 | .decode | .scan | .encode | .rxRead | .txWrite | .cycle => true

/-- A host statement is well-formed in a program when its access is admitted (R61), a WR8 datum is one byte, and
its branch target is a label of the program (R90). -/
def Machine.HostStmt.wf (prog : List Machine.HostStmt) (st : Machine.HostStmt) : Bool :=
  (match st.access? with
    | some (a, n) => Machine.admitted a n
    | none => true) &&
  (match st with
    | .wr8 _ v => v.toNat < 256
    | _ => true) &&
  (match st.target? with
    | some l => (Machine.findLabel l prog).isSome
    | none => true)

/-- A host program is well-formed when each of its statements is. -/
def hostProgramWf (prog : List Machine.HostStmt) : Bool := prog.all (Machine.HostStmt.wf prog)

end Sys2Proof
end

