-- ==== Sys2Proof/Decode.lean ====
section
/-! DEFINITION. The command word's decoder and encoder (30_encoding.md R80-R82), and the decoder on an opcode-table row. -/

namespace Sys2Proof

/-- Why a command word is illegal (R82). -/
inductive DecodeError where
  | mbzNotZero
  | reservedOp
  deriving DecidableEq, Repr

/-- The fields of a command word: OP is bits 3:0, MBZ bits 31:4 (R80). -/
def commandFields (w : Word) : CommandWord := ⟨w.extractLsb' 0 4, w.extractLsb' 4 28⟩

/-- `decodeOp` of R82, total on all 2^32 words; an illegal word is rejected by name. -/
def decodeOp (w : Word) : Except DecodeError Instr :=
  if (commandFields w).mbz = 0#28 then
    match (commandFields w).op.toNat with
    | 0 => .ok .nop
    | 1 => .ok .crc8
    | 2 => .ok .decode
    | 3 => .ok .scan
    | 4 => .ok .encode
    | 5 => .ok .rxRead
    | 6 => .ok .txWrite
    | 7 => .ok .cycle
    | _ => .error .reservedOp
  else .error .mbzNotZero

/-- The OP code of an operation (R81). -/
def opcode : Instr → BitVec 4
  | .nop => 0x0#4
  | .crc8 => 0x1#4
  | .decode => 0x2#4
  | .scan => 0x3#4
  | .encode => 0x4#4
  | .rxRead => 0x5#4
  | .txWrite => 0x6#4
  | .cycle => 0x7#4

/-- The command word of an operation (R80): MBZ zero over OP. -/
def encode (i : Instr) : Word := 0#28 ++ opcode i

/-- The operation the decoder reads from an opcode-table row of `nbits` bits; a command is exactly one 32-bit word
(R80), so a number that does not fit one is none. -/
def decodeTableWord (nbits w : Nat) : Option Instr :=
  if w % 2 ^ nbits < 2 ^ 32 then (decodeOp (BitVec.ofNat 32 (w % 2 ^ nbits))).toOption else none

end Sys2Proof
end

