-- ==== Sys2Proof/Machine/State.lean ====
section
/-! DEFINITION. The state: every piece of state 10_state.md gives the engine, the host and the transport around it
(00_scope.md R8), the reasons a step can stop, and the state after reset (10_state.md R46). -/

namespace Sys2Proof.Machine

/-- Sequencer states, the values of STATUS.STATE (R25); codes 7-15 are never held. -/
inductive SeqState where
  | idle
  | exec
  | waitReady
  | read
  | scan
  | encode
  | write
  deriving DecidableEq, Repr

/-- Result codes, the values of STATUS.RESULT (R26); codes 6-15 are never written. -/
inductive ResultCode where
  | ok
  | noFrame
  | rxTerr
  | txTerr
  | illegalOp
  | badArg
  deriving DecidableEq, Repr

/-- The transport's answer to a read request (R171): `Err`, or the bytes, oldest first. -/
inductive ReadAnswer where
  | err
  | bytes (bs : List Byte)
  deriving DecidableEq, Repr

/-- The transport's answer to a write request (R172): `Ok`, or `Err` after `sent` bytes were handed over. -/
inductive WriteAnswer where
  | ok
  | err (sent : Nat)
  deriving DecidableEq, Repr

/-- A transport request with its answer (R192). -/
inductive TransportEvent where
  | read (maxLen : Nat) (answer : ReadAnswer)
  | write (bytes : List Byte) (answer : WriteAnswer)
  deriving DecidableEq, Repr

/-- Whose step comes next (R8, R72): the host's, the engine's, or a reset event (R240). -/
inductive Turn where
  | host
  | engine
  | reset
  deriving DecidableEq, Repr

/-- The host agent (R90): its program, its place in it, and `t`, the value of its last read. -/
structure HostAgent where
  prog : List HostStmt
  pc : Nat
  t : Word
  deriving DecidableEq, Repr

/-- The transport port (R170): the coming answers, how many requests of each kind were made (the indexes of the
free values used past those lists), and the requests with their answers, oldest first (R192). -/
structure Port where
  reads : List ReadAnswer
  writes : List WriteAnswer
  readCount : Nat
  writeCount : Nat
  log : List TransportEvent
  deriving DecidableEq, Repr

/-- The interleaving (R72): the turns that come next, and how many steps were taken (the index of the free turn
used past that list). -/
structure Sched where
  turns : List Turn
  count : Nat
  deriving DecidableEq, Repr

/-- The machine's state. Register fields are stored without their reserved bits, which read 0 (R22, R48). -/
structure State where
  /-- CMD (R23), the whole word last accepted. -/
  cmd : Word
  /-- STATUS.BUSY (R24). -/
  busy : Bool
  /-- STATUS.DONE (R24). -/
  done : Bool
  /-- STATUS.FRAME_VALID (R24). -/
  frameValid : Bool
  /-- STATUS.WR_IGN (R24). -/
  wrIgn : Bool
  /-- STATUS.RESULT (R24, R26). -/
  result : ResultCode
  /-- STATUS.STATE (R24, R25). -/
  seq : SeqState
  /-- ARG.OFFSET (R27). -/
  argOffset : Byte
  /-- ARG.LENGTH (R27). -/
  argLength : Byte
  /-- RX_LEN.N (R28). -/
  rxLen : Byte
  /-- CRC_RESULT.VALUE (R29). -/
  crcResult : Byte
  /-- FRAME_OFFSET.OFFSET (R30). -/
  frameOffset : Byte
  /-- TLM_GAIN_YAW (R31). -/
  tlmGainYaw : Word
  /-- TLM_GAIN_PITCH (R32). -/
  tlmGainPitch : Word
  /-- TLM_FIELDS.MODE (R33). -/
  tlmMode : Byte
  /-- TLM_FIELDS.COLOR (R33). -/
  tlmColor : Byte
  /-- TLM_FIELDS.SPEED (R33). -/
  tlmSpeed : Byte
  /-- CMD_PITCH (R34). -/
  cmdPitch : Word
  /-- CMD_YAW (R35). -/
  cmdYaw : Word
  /-- CMD_DISTANCE (R36). -/
  cmdDistance : Word
  /-- HANDOFF.READY, the CYCLE_READY token (R37, R174). -/
  ready : Bool
  /-- HANDOFF.CDONE, the CYCLE_DONE token (R37, R175). -/
  cdone : Bool
  /-- TX_LEN.N (R38). -/
  txLen : Byte
  /-- SHADOW_PITCH (R43). -/
  shadowPitch : Word
  /-- SHADOW_YAW (R43). -/
  shadowYaw : Word
  /-- SHADOW_DISTANCE (R43). -/
  shadowDistance : Word
  /-- The RX and TX bytes written since reset (R40, R41), by block offset, strictly rising. A byte not listed still
  holds its free draw (log 1, log 2). -/
  mem : List Host.Cell
  /-- MODEL'S OWN: how many reset events there were, the index of the byte draws (log 1). -/
  resets : Nat
  /-- The host agent (R8.1). -/
  host : HostAgent
  /-- The transport port (R8.3, R170). -/
  port : Port
  /-- MODEL'S OWN: the interleaving (R72; log 6). -/
  sched : Sched
  deriving DecidableEq, Repr

/-- Why the machine stops with a fault. -/
inductive Fault where
  /-- Raised by a host access that R61 does not admit: R62 answers it with a bus error and treats it as a fault of
  the host's program. Safe (log 10). -/
  | busError
  /-- Raised by an operation's meaning when STATUS.STATE is one that the operation never visits: R181 gives no step
  for the pair and says it cannot occur. Safe (log 9). -/
  | noEngineStep
  /-- Raised by a host branch to a label that its program does not define, which R90 gives no meaning. Safe (log 12). -/
  | undefinedLabel
  deriving DecidableEq, Repr

/-- Why the machine has no meaning for an instruction. -/
inductive Refusal where
  /-- Raised by an arm of `exec` whose instruction has no meaning yet; no arm raises it now. Safe. -/
  | notModelled (mnemonic : String)
  deriving DecidableEq, Repr

/-- The state after reset (R46, R241): every register 0, IDLE, no token posted, and no buffer byte written. The shadow
command, which R46 leaves unspecified, is 0 (DESIGN CHOICE, log 3); the agents' own fields are empty (DESIGN CHOICE,
log 13). -/
def State.reset : State where
  cmd := 0#32
  busy := false
  done := false
  frameValid := false
  wrIgn := false
  result := .ok
  seq := .idle
  argOffset := 0#8
  argLength := 0#8
  rxLen := 0#8
  crcResult := 0#8
  frameOffset := 0#8
  tlmGainYaw := 0#32
  tlmGainPitch := 0#32
  tlmMode := 0#8
  tlmColor := 0#8
  tlmSpeed := 0#8
  cmdPitch := 0#32
  cmdYaw := 0#32
  cmdDistance := 0#32
  ready := false
  cdone := false
  txLen := 0#8
  shadowPitch := 0#32
  shadowYaw := 0#32
  shadowDistance := 0#32
  mem := []
  resets := 0
  host := { prog := [], pc := 0, t := 0#32 }
  port := { reads := [], writes := [], readCount := 0, writeCount := 0, log := [] }
  sched := { turns := [], count := 0 }

end Sys2Proof.Machine
end

