-- ==== Sys2Proof/Machine/Ops.lean ====
section
/-! DEFINITION. The named operations over memory and registers: byte assembly (00_scope.md R11), buffer bytes
(20_memory.md R65, R66), completion (00_scope.md R14), the command latch (10_state.md R43), acceptance
(43_session.md R180) and the reset event (70_reset_and_hazards.md R240). -/

namespace Sys2Proof.Machine

/-! ### Bytes and words -/

/-- `le32` of R11: the first byte is bits 7:0. -/
def le32 (b0 b1 b2 b3 : Byte) : Word := b3 ++ b2 ++ b1 ++ b0

/-- `bytes_le32` of R11. -/
def bytesLe32 (w : Word) : List Byte :=
  [w.extractLsb' 0 8, w.extractLsb' 8 8, w.extractLsb' 16 8, w.extractLsb' 24 8]

/-- The value of a truth value as a bit. -/
def bit (b : Bool) : BitVec 1 := BitVec.ofBool b

/-! ### Memory: the RX and TX bytes as cells -/

/-- The RX window's offsets, 0x100-0x1FE (R60). -/
def isRx (a : Nat) : Bool := 0x100 ≤ a && a ≤ 0x1FE

/-- The TX window's offsets, 0x200-0x20D (R60). -/
def isTx (a : Nat) : Bool := 0x200 ≤ a && a ≤ 0x20D

/-- The offsets that hold a stored byte: the two windows (R60). -/
def isBuffer (a : Nat) : Bool := isRx a || isTx a

/-- What a cell list says of offset `a`: `none` when nothing has written it since reset. -/
def memLookup : List Host.Cell → Nat → Option Byte
  | [], _ => none
  | c :: m, a => if c.1 = a then some c.2 else memLookup m a

/-- Write one byte, keeping the cells in rising order. -/
def memStore : List Host.Cell → Nat → Byte → List Host.Cell
  | [], a, b => [(a, b)]
  | c :: m, a, b =>
    if a < c.1 then (a, b) :: c :: m
    else if a = c.1 then (a, b) :: m
    else c :: memStore m a b

/-- Write consecutive bytes from offset `a` on. -/
def memStoreList : List Host.Cell → Nat → List Byte → List Host.Cell
  | m, _, [] => m
  | m, a, b :: bs => memStoreList (memStore m a b) (a + 1) bs

/-- The canonical form from offset `lo` on: strictly rising buffer offsets. -/
def memWfFrom : Nat → List Host.Cell → Bool
  | _, [] => true
  | lo, c :: m => lo ≤ c.1 && isBuffer c.1 && memWfFrom (c.1 + 1) m

/-- The canonical form of memory (log 2). -/
def memWf (m : List Host.Cell) : Bool := memWfFrom 0 m

/-- The stored byte at buffer offset `a`: the byte last written there, or the reset draw (R46, U1, U2; log 1). -/
def bufferByte (s : State) (a : Nat) : Byte := (memLookup s.mem a).getD (Config.resetByte s.resets a)

/-- The byte at byte-region offset `a`: a buffer byte, or 0 at a reserved offset (R65, R66). -/
def regionByte (s : State) (a : Nat) : Byte := if isBuffer a then bufferByte s a else 0#8

/-- RX[k] (R40, R60). -/
def rxByte (s : State) (k : Nat) : Byte := regionByte s (0x100 + k)

/-- TX[k] (R41, R60). -/
def txByte (s : State) (k : Nat) : Byte := regionByte s (0x200 + k)

/-- RX[o .. o+n-1] (R10). -/
def rxSpan (s : State) (o n : Nat) : List Byte := (List.range n).map fun k => rxByte s (o + k)

/-- TX[0 .. n-1] (R10). -/
def txSpan (s : State) (n : Nat) : List Byte := (List.range n).map (txByte s)

/-- RX[k] <- b for the bytes of `bs` from index 0 on, as a read step writes them (R183). -/
def fillRx (bs : List Byte) (s : State) : State := { s with mem := memStoreList s.mem 0x100 bs }

/-- TX[0..13] <- the frame `bs`, and TX_LEN.N <- 14, as an encode step writes them (R127, R189). -/
def fillTx (bs : List Byte) (s : State) : State := { s with mem := memStoreList s.mem 0x200 bs, txLen := 14#8 }

/-! ### Operations shared by the steps -/

/-- `complete(code)`, also written `raise E` (R14, R210): the end of every operation, and all the engine has in place of
taking an exception. -/
def complete (code : ResultCode) (s : State) : State :=
  { s with result := code, busy := false, done := true, seq := .idle }

/-- The command latch (R43, R249): CMD_PITCH, CMD_YAW and CMD_DISTANCE are copied into the shadow command at once. -/
def latchCommand (s : State) : State :=
  { s with shadowPitch := s.cmdPitch, shadowYaw := s.cmdYaw, shadowDistance := s.cmdDistance }

/-- The sequencer state in which an accepted command starts (R81, R180); illegal words start in EXEC. -/
def firstState : Except DecodeError Instr → SeqState
  | .ok .rxRead => .read
  | .ok .txWrite => .write
  | .ok .cycle => .waitReady
  | .ok .nop | .ok .crc8 | .ok .decode | .ok .scan | .ok .encode => .exec
  | .error _ => .exec

/-- The commands whose acceptance clears FRAME_VALID (R180). -/
def clearsFrameValid : Except DecodeError Instr → Bool
  | .ok .decode | .ok .scan | .ok .cycle => true
  | _ => false

/-- The commands whose acceptance latches the shadow command (R180). -/
def latchesAtAcceptance : Except DecodeError Instr → Bool
  | .ok .encode => true
  | _ => false

/-- `acceptCommand(v)` (R180). -/
def acceptCommand (v : Word) (s : State) : State :=
  { s with
    cmd := v
    busy := true
    done := false
    result := .ok
    frameValid := if clearsFrameValid (decodeOp v) then false else s.frameValid
    shadowPitch := if latchesAtAcceptance (decodeOp v) then s.cmdPitch else s.shadowPitch
    shadowYaw := if latchesAtAcceptance (decodeOp v) then s.cmdYaw else s.shadowYaw
    shadowDistance := if latchesAtAcceptance (decodeOp v) then s.cmdDistance else s.shadowDistance
    seq := firstState (decodeOp v) }

/-- The reset event (R240, R242, R243): every piece of the engine's state takes its value of R46, the buffers a fresh draw;
the host, the transport and the interleaving are not the engine's and go on (log 14). -/
def resetEvent (s : State) : State :=
  { State.reset with resets := s.resets + 1, host := s.host, port := s.port, sched := s.sched }

/-! ### The interleaving -/

/-- Whose step is next (R72): the first of the listed turns, and past the list a free value (U15; log 6). -/
def nextTurn (s : State) : Turn :=
  match s.sched.turns with
  | t :: _ => t
  | [] => if Config.freeTurn s.sched.count then .engine else .host

/-- The turn is taken. -/
def takeTurn (s : State) : State :=
  { s with sched := { turns := s.sched.turns.tail, count := s.sched.count + 1 } }

end Sys2Proof.Machine
end

