-- ==== Sys2Proof/Machine/Flags.lean ====
section
/-! DEFINITION. The flags (10_state.md R45): the codes of RESULT and STATE, the register words they are read through, and the
flag writes of a host write to STATUS and HANDOFF (R24, R37, 20_memory.md R64). -/

namespace Sys2Proof.Machine

/-- The 4-bit code of a result (R26). -/
def resultCode : ResultCode → BitVec 4
  | .ok => 0#4
  | .noFrame => 1#4
  | .rxTerr => 2#4
  | .txTerr => 3#4
  | .illegalOp => 4#4
  | .badArg => 5#4

/-- The 4-bit code of a sequencer state (R25). -/
def seqCode : SeqState → BitVec 4
  | .idle => 0#4
  | .exec => 1#4
  | .waitReady => 2#4
  | .read => 3#4
  | .scan => 4#4
  | .encode => 5#4
  | .write => 6#4

/-- The STATUS word (R24): STATE 15:12, RESULT 11:8, WR_IGN 3, FRAME_VALID 2, DONE 1, BUSY 0, the rest 0. -/
def statusWord (s : State) : Word :=
  0#16 ++ seqCode s.seq ++ resultCode s.result ++ 0#4 ++ bit s.wrIgn ++ bit s.frameValid ++ bit s.done ++ bit s.busy

/-- The HANDOFF word (R37): CDONE 1, READY 0, the rest 0. -/
def handoffWord (s : State) : Word := 0#30 ++ bit s.cdone ++ bit s.ready

/-- The ARG word (R27): LENGTH 15:8, OFFSET 7:0, the rest 0. -/
def argWord (s : State) : Word := 0#16 ++ s.argLength ++ s.argOffset

/-- The TLM_FIELDS word (R33): SPEED 23:16, COLOR 15:8, MODE 7:0, the rest 0. -/
def tlmFieldsWord (s : State) : Word := 0#8 ++ s.tlmSpeed ++ s.tlmColor ++ s.tlmMode

/-- The word of a register whose one field is bits 7:0 (R28, R29, R30, R38). -/
def byteWord (b : Byte) : Word := 0#24 ++ b

/-- A host write to STATUS (R24, R64): bit 1 clears DONE, bit 3 clears WR_IGN, every other bit is ignored. -/
def writeStatus (v : Word) (s : State) : State :=
  { s with done := s.done && !v.getLsbD 1, wrIgn := s.wrIgn && !v.getLsbD 3 }

/-- A host write to HANDOFF (R37, R64): bit 0 posts READY, bit 1 clears CDONE, every other bit is ignored. -/
def writeHandoff (v : Word) (s : State) : State :=
  { s with ready := s.ready || v.getLsbD 0, cdone := s.cdone && !v.getLsbD 1 }

/-- A host write ignored because BUSY = 1 (R213). -/
def ignoreWrite (s : State) : State := { s with wrIgn := true }

end Sys2Proof.Machine
end

