-- ==== Sys2Proof/Machine/Bus.lean ====
section
/-! DEFINITION. The host's bus (20_memory.md): admitted accesses (R61), register reads and writes (R63, R64), the RX and TX
windows (R65, R66). A 32-bit access is one step (R69); an access not admitted is a bus error (R62). -/

namespace Sys2Proof.Machine

/-- The register at offset `a` as a host reads it (R63, R22-R39); reserved offsets read 0 (R39). -/
def readRegister (s : State) (a : Nat) : Word :=
  if a = offCmd then s.cmd
  else if a = offStatus then statusWord s
  else if a = offArg then argWord s
  else if a = offRxLen then byteWord s.rxLen
  else if a = offCrcResult then byteWord s.crcResult
  else if a = offFrameOffset then byteWord s.frameOffset
  else if a = offTlmGainYaw then s.tlmGainYaw
  else if a = offTlmGainPitch then s.tlmGainPitch
  else if a = offTlmFields then tlmFieldsWord s
  else if a = offCmdPitch then s.cmdPitch
  else if a = offCmdYaw then s.cmdYaw
  else if a = offCmdDistance then s.cmdDistance
  else if a = offHandoff then handoffWord s
  else if a = offTxLen then byteWord s.txLen
  else 0#32

/-- The busy-locked registers (R22, R64). -/
def busyLocked (a : Nat) : Bool := a == offCmd || a == offArg || a == offRxLen

/-- A host write of `v` to the register at offset `a` (R64): only defined fields are stored (R48). -/
def writeRegister (a : Nat) (v : Word) (s : State) : State :=
  if busyLocked a && s.busy then ignoreWrite s
  else if a = offCmd then acceptCommand v s
  else if a = offStatus then writeStatus v s
  else if a = offArg then { s with argOffset := v.extractLsb' 0 8, argLength := v.extractLsb' 8 8 }
  else if a = offRxLen then { s with rxLen := v.extractLsb' 0 8 }
  else if a = offCmdPitch then { s with cmdPitch := v }
  else if a = offCmdYaw then { s with cmdYaw := v }
  else if a = offCmdDistance then { s with cmdDistance := v }
  else if a = offHandoff then writeHandoff v s
  else s

/-- The bytes a host access of width `n` writes: bits 7:0 first (R67). -/
def writeBytes (n : Nat) (v : Word) : List Byte := (bytesLe32 v).take n

/-- Store consecutive bytes from byte-region offset `a` on, leaving out what is not an RX byte (R65). -/
def storeRx : Nat → List Byte → State → State
  | _, [], s => s
  | a, b :: bs, s => storeRx (a + 1) bs (if isRx a then { s with mem := memStore s.mem a b } else s)

/-- A host write of `n` bytes at byte-region offset `a`: the RX window is busy-locked (R65); the reserved byte 0x1FF on
its own, the TX window and the reserved bytes ignore it without WR_IGN (R65, R66, U10; log 15). -/
def writeWindow (a n : Nat) (v : Word) (s : State) : State :=
  if isRx a then
    if s.busy then ignoreWrite s else storeRx a (writeBytes n v) s
  else s

/-- `MemRead(a, n)` (R12, R63, R65, R66): the value read, or `none` for a bus error (R62). -/
def memRead (s : State) (a n : Nat) : Option Word :=
  if admitted a n then
    if a < 0x100 then some (readRegister s a)
    else if n = 1 then some (byteWord (regionByte s a))
    else some (le32 (regionByte s a) (regionByte s (a + 1)) (regionByte s (a + 2)) (regionByte s (a + 3)))
  else none

/-- `MemWrite(a, n, v)` (R12, R64, R65, R66): the state after it, or `none` for a bus error (R62). -/
def memWrite (s : State) (a n : Nat) (v : Word) : Option State :=
  if admitted a n then
    if a < 0x100 then some (writeRegister a v s) else some (writeWindow a n v s)
  else none

/-- A host read at an address of the platform's address space: the block's offset is the address less BLOCK_BASE
(R60); below the block there is nothing of the engine's. -/
def busRead (s : State) (addr n : Nat) : Option Word :=
  if Config.blockBase ≤ addr then memRead s (addr - Config.blockBase) n else none

/-- A host write at an address of the platform's address space (R60). -/
def busWrite (s : State) (addr n : Nat) (v : Word) : Option State :=
  if Config.blockBase ≤ addr then memWrite s (addr - Config.blockBase) n v else none

end Sys2Proof.Machine
end

