-- ==== Sys2Proof/Machine/Operands.lean ====
section
/-! DEFINITION. Operand assembly (30_encoding.md R83): every operand is unsigned and zero-extended to a natural number, so that
index arithmetic never wraps (00_scope.md R9). -/

namespace Sys2Proof.Machine

/-- `o = zext(ARG.OFFSET)` (R83). -/
def operandOffset (s : State) : Nat := s.argOffset.toNat

/-- `L = zext(ARG.LENGTH)` (R83). -/
def operandLength (s : State) : Nat := s.argLength.toNat

/-- `N = RX_LEN.N` (R83, R28). -/
def rxCount (s : State) : Nat := s.rxLen.toNat

/-- RX[0 .. N-1], "the raw buffer of length N" (R28). -/
def validRx (s : State) : List Byte := rxSpan s 0 (rxCount s)

/-- RX[o .. o+L-1], the span of CRC8 (R105). -/
def crcSpan (s : State) : List Byte := rxSpan s (operandOffset s) (operandLength s)

/-- RX[o .. o+12], the candidate of DECODE (R126). -/
def decodeSpan (s : State) : List Byte := rxSpan s (operandOffset s) Config.frameIn

/-- `TX_LEN.N` (R83, R38). -/
def txCount (s : State) : Nat := s.txLen.toNat

/-- TX[0 .. TX_LEN.N-1], the bytes of a write request (R184). -/
def writeSpan (s : State) : List Byte := txSpan s (txCount s)

end Sys2Proof.Machine
end

