-- ==== Sys2Proof/Machine/Codec.lean ====
section
/-! DEFINITION. The frame codec (41_codec.md): the two frames (30_encoding.md R85-R89), the commit of an accepted frame, and the
meanings of DECODE and ENCODE. Floats are bit patterns, moved and never computed (R125). -/

namespace Sys2Proof.Machine

/-- A decoded telemetry frame (R120). -/
structure Telemetry where
  gainYaw : Word
  gainPitch : Word
  mode : Byte
  color : Byte
  speed : Byte
  deriving DecidableEq, Repr

/-- A decoded command frame (R122). -/
structure CommandFrame where
  pitch : Word
  yaw : Word
  distance : Word
  deriving DecidableEq, Repr

/-- `f[k]` of a frame. -/
def frameByte (f : List Byte) (k : Nat) : Byte := f.getD k 0#8

/-- The float field at frame bytes `k .. k+3` (R87). -/
def frameField (f : List Byte) (k : Nat) : Word :=
  le32 (frameByte f k) (frameByte f (k + 1)) (frameByte f (k + 2)) (frameByte f (k + 3))

/-- `f[1 .. n]`, the payload of a frame with `n` payload bytes (R16). -/
def framePayload (f : List Byte) (n : Nat) : List Byte := (f.drop 1).take n

/-- `validTelemetry(f)` (R120), for a list of exactly 13 bytes. -/
def validTelemetry (f : List Byte) : Bool :=
  f.length == Config.frameIn && frameByte f 0 == Config.syncIn && frameByte f 12 == crc8 (framePayload f 11)

/-- The fields of a telemetry frame (R85, R87); the enumerations are not checked (R124). -/
def telemetryOf (f : List Byte) : Telemetry where
  gainYaw := frameField f 1
  gainPitch := frameField f 5
  mode := frameByte f 9
  color := frameByte f 10
  speed := frameByte f 11

/-- `decodeTelemetry(f)` (R120). -/
def decodeTelemetry (f : List Byte) : Option Telemetry :=
  if validTelemetry f then some (telemetryOf f) else none

/-- The twelve payload bytes of a command frame (R121). -/
def commandBody (p y d : Word) : List Byte := bytesLe32 p ++ bytesLe32 y ++ bytesLe32 d

/-- `encodeCommand(p, y, d)` (R121). -/
def encodeCommand (p y d : Word) : List Byte :=
  [Config.syncOut] ++ commandBody p y d ++ [crc8 (commandBody p y d)]

/-- `decodeCommand(f)` (R122), a reference function that no operation performs. -/
def decodeCommand (f : List Byte) : Option CommandFrame :=
  if f.length = Config.frameOut ∧ frameByte f 0 = Config.syncOut ∧ frameByte f 13 = crc8 (framePayload f 12) then
    some { pitch := frameField f 1, yaw := frameField f 5, distance := frameField f 9 }
  else none

/-- The bytes of a telemetry record as a frame again (R128). -/
def encodeTelemetry (r : Telemetry) : List Byte :=
  let body := bytesLe32 r.gainYaw ++ bytesLe32 r.gainPitch ++ [r.mode, r.color, r.speed]
  [Config.syncIn] ++ body ++ [crc8 body]

/-- `commitTelemetry(i, r)` (R123): the record, its offset and FRAME_VALID, all at once. -/
def commitTelemetry (i : Nat) (r : Telemetry) (s : State) : State :=
  { s with
    tlmGainYaw := r.gainYaw
    tlmGainPitch := r.gainPitch
    tlmMode := r.mode
    tlmColor := r.color
    tlmSpeed := r.speed
    frameOffset := BitVec.ofNat 8 i
    frameValid := true }

/-- The EXEC step of DECODE (R126). -/
def decodeStep (s : State) : State :=
  if operandOffset s + Config.frameIn > rxCount s then complete .badArg s
  else
    match decodeTelemetry (decodeSpan s) with
    | some r => complete .ok (commitTelemetry (operandOffset s) r s)
    | none => complete .noFrame s

/-- DECODE (R126, R191): its one engine step is in state EXEC (R181). -/
def execDecode (s : State) : Host.Outcome State Fault Refusal :=
  if s.seq = .exec then .next (decodeStep s) else .fault .noEngineStep

/-- TX and TX_LEN as an encode step leaves them (R127, R189): the frame of the shadow command, 14 bytes. -/
def encodeShadow (s : State) : State := fillTx (encodeCommand s.shadowPitch s.shadowYaw s.shadowDistance) s

/-- ENCODE (R127, R191): its one engine step is in state EXEC (R181). -/
def execEncode (s : State) : Host.Outcome State Fault Refusal :=
  if s.seq = .exec then .next (complete .ok (encodeShadow s)) else .fault .noEngineStep

end Sys2Proof.Machine
end

