-- ==== Sys2Proof/Machine/Synchronizer.lean ====
section
/-! DEFINITION. The frame synchronizer (42_synchronizer.md): the newest-first scan and the meaning of SCAN. The scan is a function
of the list RX[0..N-1], so that no byte at an index of N or more can reach it (R154). -/

namespace Sys2Proof.Machine

/-- The 13-byte window of a buffer at offset `i`. -/
def window (bs : List Byte) (i : Nat) : List Byte := (bs.drop i).take Config.frameIn

/-- `accept(RX, i)` (R151). -/
def acceptAt (bs : List Byte) (i : Nat) : Bool := validTelemetry (window bs i)

/-- The descending search of R150: from offset `i` down to 0, the first accepted offset. -/
def scanDown (bs : List Byte) : Nat → Option Nat
  | 0 => if acceptAt bs 0 then some 0 else none
  | i + 1 => if acceptAt bs (i + 1) then some (i + 1) else scanDown bs i

/-- `scan(RX, N)` on the list RX[0..N-1] (R150, R152). -/
def scan (bs : List Byte) : Option Nat :=
  if bs.length < Config.frameIn then none else scanDown bs (bs.length - Config.frameIn)

/-- Synchronize and decode (R155, R188): the commit of the frame the scan finds, or nothing. -/
def scanCommit (s : State) : State :=
  match scan (validRx s) with
  | some i => commitTelemetry i (telemetryOf (window (validRx s) i)) s
  | none => s

/-- The result of SCAN (R155). -/
def scanResult (s : State) : ResultCode := if (scan (validRx s)).isSome then .ok else .noFrame

/-- SCAN (R155, R191): its one engine step is in state EXEC (R181). -/
def execScan (s : State) : Host.Outcome State Fault Refusal :=
  if s.seq = .exec then .next (complete (scanResult s) (scanCommit s)) else .fault .noEngineStep

end Sys2Proof.Machine
end

