-- ==== Sys2Proof/Machine/Transport.lean ====
section
/-! DEFINITION. The transport port (43_session.md R170-R173): the two requests, their answers as draws, and the record of requests
(R192). -/

namespace Sys2Proof.Machine

/-- An answer to `read(max)` holds at most `max` bytes (R171). -/
def boundRead (max : Nat) : ReadAnswer → ReadAnswer
  | .err => .err
  | .bytes bs => .bytes (bs.take max)

/-- The free answer to read request number `n` (U4; log 4). -/
def freeRead (n : Nat) : ReadAnswer := if Config.freeReadOk n then .bytes (Config.freeReadBytes n) else .err

/-- The free answer to write request number `n` (U5, U6; log 5). -/
def freeWrite (n : Nat) : WriteAnswer := if Config.freeWriteOk n then .ok else .err (Config.freeWriteSent n)

/-- What `TransportRead(255)` answers (R171, R13): the first of the coming answers, and past that list a free value. -/
def readAnswer (s : State) : ReadAnswer :=
  boundRead Config.rxCap (s.port.reads.headD (freeRead s.port.readCount))

/-- What `TransportWrite` answers (R172, R13): the first of the coming answers, and past that list a free value. -/
def writeAnswer (s : State) : WriteAnswer := s.port.writes.headD (freeWrite s.port.writeCount)

/-- The port after a read request: the answer is used up and the request recorded. -/
def afterRead (s : State) : State :=
  { s with
    port := { s.port with
      reads := s.port.reads.tail
      readCount := s.port.readCount + 1
      log := s.port.log ++ [.read Config.rxCap (readAnswer s)] } }

/-- The port after a write request for `bs`: the answer is used up and the request recorded. -/
def afterWrite (bs : List Byte) (s : State) : State :=
  { s with
    port := { s.port with
      writes := s.port.writes.tail
      writeCount := s.port.writeCount + 1
      log := s.port.log ++ [.write bs (writeAnswer s)] } }

/-- The bytes a request handed to the transport (R172): all of them on `Ok`, an unknown number of the first ones on
`Err`. -/
def handedOver : TransportEvent → List Byte
  | .read _ _ => []
  | .write bs .ok => bs
  | .write bs (.err sent) => bs.take sent

/-- RX and RX_LEN as a read of the bytes `bs` leaves them (R183, R187): filled from index 0, nothing carried over. -/
def takeBytes (bs : List Byte) (s : State) : State :=
  { fillRx bs s with rxLen := BitVec.ofNat 8 bs.length }

end Sys2Proof.Machine
end

