-- ==== Sys2Proof/Machine/Session.lean ====
section
/-! DEFINITION. The link session (43_session.md): the meanings of NOP, RX_READ, TX_WRITE and CYCLE, and the EXEC step of an
illegal word. -/

namespace Sys2Proof.Machine

/-- NOP (R182, R191). -/
def execNop (s : State) : Host.Outcome State Fault Refusal :=
  if s.seq = .exec then .next (complete .ok s) else .fault .noEngineStep

/-- The READ step of RX_READ (R183). -/
def rxReadStep (s : State) : State :=
  match readAnswer s with
  | .err => complete .rxTerr (afterRead s)
  | .bytes bs => complete .ok (takeBytes bs (afterRead s))

/-- RX_READ (R183): its one engine step is in state READ (R181). -/
def execRxRead (s : State) : Host.Outcome State Fault Refusal :=
  if s.seq = .read then .next (rxReadStep s) else .fault .noEngineStep

/-- The WRITE step of TX_WRITE (R184); with TX_LEN = 0 no request is made. -/
def txWriteStep (s : State) : State :=
  if txCount s = 0 then complete .badArg s
  else
    match writeAnswer s with
    | .err _ => complete .txTerr (afterWrite (writeSpan s) s)
    | .ok => complete .ok (afterWrite (writeSpan s) s)

/-- TX_WRITE (R184): its one engine step is in state WRITE (R181). -/
def execTxWrite (s : State) : Host.Outcome State Fault Refusal :=
  if s.seq = .write then .next (txWriteStep s) else .fault .noEngineStep

/-- CYCLE, WAIT_READY (R186): the gate consumes READY and latches the command; while READY = 0 the engine has no step
and keeps its state (R226, R250; log 8). -/
def cycleGate (s : State) : State :=
  if s.ready then { latchCommand s with ready := false, seq := .read } else s

/-- CYCLE, READ (R187). -/
def cycleRead (s : State) : State :=
  match readAnswer s with
  | .err => complete .rxTerr (afterRead s)
  | .bytes bs => { takeBytes bs (afterRead s) with seq := .scan }

/-- CYCLE, SCAN (R188): synchronize, decode, and raise CDONE in the same step. -/
def cycleScan (s : State) : State := { scanCommit s with cdone := true, seq := .encode }

/-- CYCLE, ENCODE (R189), whether or not a frame was found. -/
def cycleEncode (s : State) : State := { encodeShadow s with seq := .write }

/-- CYCLE, WRITE (R190): TX[0..13] is requested. -/
def cycleWrite (s : State) : State :=
  match writeAnswer s with
  | .err _ => complete .txTerr (afterWrite (txSpan s Config.frameOut) s)
  | .ok => complete (if s.frameValid then .ok else .noFrame) (afterWrite (txSpan s Config.frameOut) s)

/-- CYCLE (R185): the engine step of its sequencer state (R181). -/
def execCycle (s : State) : Host.Outcome State Fault Refusal :=
  match s.seq with
  | .waitReady => .next (cycleGate s)
  | .read => .next (cycleRead s)
  | .scan => .next (cycleScan s)
  | .encode => .next (cycleEncode s)
  | .write => .next (cycleWrite s)
  | .idle => .fault .noEngineStep
  | .exec => .fault .noEngineStep

/-- The EXEC step of an illegal word (R82, R191): ILLEGAL_OP and no other effect. -/
def illegalWord (s : State) : Host.Outcome State Fault Refusal :=
  if s.seq = .exec then .next (complete .illegalOp s) else .fault .noEngineStep

end Sys2Proof.Machine
end

