-- ==== Sys2Proof/Machine/Dispatch.lean ====
section
/-! DEFINITION. One arm per operation: the engine step it takes (43_session.md R181, R191). -/

namespace Sys2Proof.Machine

def exec (i : Instr) (s : State) : Host.Outcome State Fault Refusal :=
  match i with
  | .nop => Sys2Proof.Machine.execNop s
  | .crc8 => Sys2Proof.Machine.execCrc8 s
  | .decode => Sys2Proof.Machine.execDecode s
  | .scan => Sys2Proof.Machine.execScan s
  | .encode => Sys2Proof.Machine.execEncode s
  | .rxRead => Sys2Proof.Machine.execRxRead s
  | .txWrite => Sys2Proof.Machine.execTxWrite s
  | .cycle => Sys2Proof.Machine.execCycle s

end Sys2Proof.Machine
end

