-- ==== Sys2Proof/Machine/Agents.lean ====
section
/-! DEFINITION. The steps of the host (30_encoding.md R90) and of the engine (43_session.md R181). -/

namespace Sys2Proof.Machine

/-- The host goes on to its next statement. -/
def hostNext (s : State) : State := { s with host := { s.host with pc := s.host.pc + 1 } }

/-- The value a host read returns goes to `t` (R90). -/
def setT (v : Word) (s : State) : State := { s with host := { s.host with t := v } }

/-- A host read of `n` bytes at offset `a`. -/
def hostRead (a n : Nat) (s : State) : Host.Outcome State Fault Refusal :=
  match memRead s a n with
  | some v => .next (hostNext (setT v s))
  | none => .fault .busError

/-- A host write of `n` bytes at offset `a`. -/
def hostWrite (a n : Nat) (v : Word) (s : State) : Host.Outcome State Fault Refusal :=
  match memWrite s a n v with
  | some s' => .next (hostNext s')
  | none => .fault .busError

/-- The host goes to label `l` of its program; a label that is not there is a fault (log 12). -/
def hostGoto (l : Nat) (s : State) : Host.Outcome State Fault Refusal :=
  match findLabel l s.host.prog with
  | some k => .next { s with host := { s.host with pc := k } }
  | none => .fault .undefinedLabel

/-- A host branch (R90): one 32-bit read, then to `l` if `taken` says so of the masked value. -/
def hostBranch (a : Nat) (m : Word) (taken : Word → Bool) (l : Nat) (s : State) :
    Host.Outcome State Fault Refusal :=
  match memRead s a 4 with
  | some x => if taken (x &&& m) then hostGoto l (setT x s) else .next (hostNext (setT x s))
  | none => .fault .busError

/-- One statement of the host program (R90). HALT has no further step. -/
def hostStmt (st : HostStmt) (s : State) : Host.Outcome State Fault Refusal :=
  match st with
  | .wr32 off v => hostWrite off 4 v s
  | .wr8 off v => hostWrite off 1 v s
  | .rd32 off => hostRead off 4 s
  | .rd8 off => hostRead off 1 s
  | .brne off m v l => hostBranch off m (fun x => x != v) l s
  | .breq off m v l => hostBranch off m (fun x => x == v) l s
  | .label _ => .next (hostNext s)
  | .halt => .next s

/-- The host's step (R8.1); past its program's last statement it has none (log 12). -/
def hostStep (s : State) : Host.Outcome State Fault Refusal :=
  match s.host.prog[s.host.pc]? with
  | some st => hostStmt st s
  | none => .next s

/-- The engine's step (R181): none while BUSY = 0, which leaves the state as it is (R226; log 8); else the step of the
operation that CMD names, or of an illegal word (R191). -/
def engineStep (s : State) : Host.Outcome State Fault Refusal :=
  if s.busy then
    match decodeOp s.cmd with
    | .ok i => exec i s
    | .error _ => illegalWord s
  else .next s

/-- The step of the agent whose turn it is (R8, R72, R240). -/
def agentStep (t : Turn) (s : State) : Host.Outcome State Fault Refusal :=
  match t with
  | .host => hostStep s
  | .engine => engineStep s
  | .reset => .next (resetEvent s)

/-- The state in which `v` has just been accepted and the engine's turn is next (log 16). -/
def placeCommand (v : Word) (s : State) : State :=
  { acceptCommand v s with sched := { s.sched with turns := .engine :: s.sched.turns } }

end Sys2Proof.Machine
end

