-- ==== Sys2Proof/Machine/Step.lean ====
section
/-! DEFINITION. One step of the machine: the next agent's (20_memory.md R72), and the placing of a command word where the engine
takes its next operation from. -/

namespace Sys2Proof.Machine

/-- One step of the interleaving (R8, R72): the turn is taken, then the agent whose turn it was steps. -/
def step (s : State) : Host.Outcome State Fault Refusal := agentStep (nextTurn s) (takeTurn s)

/-- `s` with the command word that `nbits` bits of `w` give, accepted (R180) and due for the engine's step next
(log 16). -/
def State.withFetchWord (s : State) (nbits w : Nat) : State := placeCommand (BitVec.ofNat 32 (w % 2 ^ nbits)) s

end Sys2Proof.Machine
end

