-- ==== Sys2Proof/Safety.lean ====
section
/-! DEFINITION. The terms claims use: the invariant of the engine's state, the observation and the end of a run (43_session.md
R192), and runs of several engine steps (R193). -/

namespace Sys2Proof.Machine

/-- The (STATE, op) pairs that can occur while BUSY = 1 (R181). -/
def pairOccurs : SeqState → Except DecodeError Instr → Bool
  | .exec, .ok .nop | .exec, .ok .crc8 | .exec, .ok .decode | .exec, .ok .scan | .exec, .ok .encode => true
  | .exec, .error _ => true
  | .waitReady, .ok .cycle => true
  | .read, .ok .rxRead | .read, .ok .cycle => true
  | .scan, .ok .cycle => true
  | .encode, .ok .cycle => true
  | .write, .ok .txWrite | .write, .ok .cycle => true
  | _, _ => false

/-- STATE = IDLE exactly while BUSY = 0 (R25), and while BUSY = 1 the pair of STATE and op is one of R181. -/
def seqInv (s : State) : Bool :=
  if s.busy then pairOccurs s.seq (decodeOp s.cmd) else s.seq == .idle

/-- While BUSY = 1, DONE = 0 and RESULT = 0 (R180, R14). -/
def flagInv (s : State) : Bool := !s.busy || (!s.done && s.result == .ok)

/-- From the acceptance of DECODE, SCAN or CYCLE until its frame is committed, FRAME_VALID = 0 (R24, R180). -/
def frameInv (s : State) : Bool :=
  !s.busy || !clearsFrameValid (decodeOp s.cmd) || s.seq == .encode || s.seq == .write || !s.frameValid

/-- TX_LEN is 0 or 14 (R38); when it is 14, TX is a command frame with a good check byte (R41, R121); and CYCLE's WRITE
step finds it 14 (R189, R190). -/
def txInv (s : State) : Bool :=
  (s.txLen == 0#8 || (s.txLen == 14#8 && (decodeCommand (txSpan s Config.frameOut)).isSome)) &&
  (s.seq != .write || decodeOp s.cmd != .ok .cycle || s.txLen == 14#8)

/-- The invariant of the state: every part of it holds at reset and is kept by every step. -/
def Inv (s : State) : Prop :=
  memWf s.mem = true ∧ seqInv s = true ∧ flagInv s = true ∧ frameInv s = true ∧ txInv s = true

/-- The record a host reads out of the telemetry registers with FRAME_OFFSET (R47). -/
def telemetryRecord (s : State) : Telemetry × Byte :=
  ({ gainYaw := s.tlmGainYaw, gainPitch := s.tlmGainPitch, mode := s.tlmMode, color := s.tlmColor,
     speed := s.tlmSpeed }, s.frameOffset)

/-- A valid telemetry frame lies at offset `i` of the valid bytes of RX (R120, R150, R151), said byte by byte. -/
abbrev frameAt (s : State) (i : Nat) : Prop :=
  i + 13 ≤ s.rxLen.toNat ∧ rxByte s i = 0x5A#8 ∧ rxByte s (i + 12) = crc8 (rxSpan s (i + 1) 11)

/-- The telemetry registers as the acceptance of the frame at RX offset `i` leaves them (R123, R85, R87). -/
def withFrame (s : State) (i : Nat) : State :=
  { s with
    tlmGainYaw := le32 (rxByte s (i + 1)) (rxByte s (i + 2)) (rxByte s (i + 3)) (rxByte s (i + 4))
    tlmGainPitch := le32 (rxByte s (i + 5)) (rxByte s (i + 6)) (rxByte s (i + 7)) (rxByte s (i + 8))
    tlmMode := rxByte s (i + 9)
    tlmColor := rxByte s (i + 10)
    tlmSpeed := rxByte s (i + 11)
    frameOffset := BitVec.ofNat 8 i
    frameValid := true }

/-- The state with a read request answered `ans` recorded and its answer used up (R171, R192). -/
def readLogged (s : State) (ans : ReadAnswer) : State :=
  { s with
    port := { s.port with
      reads := s.port.reads.tail
      readCount := s.port.readCount + 1
      log := s.port.log ++ [.read 255 ans] } }

/-- The state with a write request for `bs` answered `ans` recorded and its answer used up (R172, R192). -/
def writeLogged (s : State) (bs : List Byte) (ans : WriteAnswer) : State :=
  { s with
    port := { s.port with
      writes := s.port.writes.tail
      writeCount := s.port.writeCount + 1
      log := s.port.log ++ [.write bs ans] } }

/-- The operation in progress ended with `code` (R14). -/
def ended (s : State) (code : ResultCode) : State :=
  { s with result := code, busy := false, done := true, seq := .idle }

/-- A transport request with its answer as R192 lets a claim observe it: a read with `Err` or its bytes, a write with
`Ok` or `Err`. How much of a frame a write answered `Err` sent is not said (R192, U6; log 5). -/
inductive ObservedRequest where
  | read (maxLen : Nat) (answer : ReadAnswer)
  | write (bytes : List Byte) (ok : Bool)
  deriving DecidableEq, Repr

/-- What R192 says of a recorded request. -/
def observeRequest : TransportEvent → ObservedRequest
  | .read maxLen answer => .read maxLen answer
  | .write bytes .ok => .write bytes true
  | .write bytes (.err _) => .write bytes false

/-- What R192 lets a claim observe of a run: the register block, RX, TX, and the requests with their answers. -/
structure Observation where
  registers : List Word
  rx : List Byte
  tx : List Byte
  requests : List ObservedRequest
  deriving DecidableEq, Repr

/-- The observation of a state (R192). -/
def observe (s : State) : Observation where
  registers := (List.range 14).map fun k => readRegister s (4 * k)
  rx := rxSpan s 0 Config.rxCap
  tx := txSpan s Config.txCap
  requests := s.port.log.map observeRequest

/-- The host program is at HALT (R90). -/
def atHalt (s : State) : Bool := s.host.prog[s.host.pc]? == some .halt

/-- A run is final when its host program is at HALT with no operation in progress (R192, U12). -/
def finished (s : State) : Bool := atHalt s && !s.busy

/-- The engine step is enabled (R181): an operation is in progress and it is not a CYCLE waiting for READY. -/
def engineEnabled (s : State) : Bool :=
  s.busy && (decodeOp s.cmd != .ok .cycle || s.seq != .waitReady || s.ready)

/-- `n` engine steps in a row, stopping at a fault or a refusal. -/
def engineSteps : Nat → State → Host.Outcome State Fault Refusal
  | 0, s => .next s
  | n + 1, s =>
    match engineStep s with
    | .next s' => engineSteps n s'
    | .fault r => .fault r
    | .refused r => .refused r

end Sys2Proof.Machine
end

