-- ==== Sys2Proof/Certificates/Slice0/Obligations.lean ====
section
/-! DEFINITION. The statements for the provers, from the numbered rules of spec/. Each docstring names the rule or the section it
formalises. -/

open Sys2Proof Sys2Proof.Machine

/-! ### Encoding -/

/-- R80-R82: the decoder reads an operation from exactly one of the 2^32 words, the one the encoder writes for it. -/
def Obligations.DecodeAndEncodeAgree : Prop :=
  ∀ (i : Instr) (w : Word), decodeOp w = .ok i ↔ (i.wf = true ∧ w = encode i)

/-- R82: a word is rejected exactly when OP >= 8 or MBZ is not zero. -/
def Obligations.IllegalWordsAreRejected : Prop :=
  ∀ w : Word, (∃ e, decodeOp w = .error e) ↔ (8 ≤ w.toNat % 16 ∨ w.toNat / 16 ≠ 0)

/-- R81 and 95_test_vectors.md L2.5: the opcode map's words, and some words next to them. -/
def Obligations.OpcodeMapWordsDecode : Prop :=
  decodeOp 0x00000000#32 = .ok .nop ∧ decodeOp 0x00000001#32 = .ok .crc8 ∧
  decodeOp 0x00000002#32 = .ok .decode ∧ decodeOp 0x00000003#32 = .ok .scan ∧
  decodeOp 0x00000004#32 = .ok .encode ∧ decodeOp 0x00000005#32 = .ok .rxRead ∧
  decodeOp 0x00000006#32 = .ok .txWrite ∧ decodeOp 0x00000007#32 = .ok .cycle ∧
  decodeOp 0x00000008#32 = .error .reservedOp ∧ decodeOp 0x0000000F#32 = .error .reservedOp ∧
  decodeOp 0x00000010#32 = .error .mbzNotZero ∧ decodeOp 0x80000007#32 = .error .mbzNotZero

/-! ### The step and the acceptance of a command -/

/-- R181: in the engine's turn, with an operation in progress, step is exec of the operation that CMD names. The model's
step takes the turn first (log 6). -/
def Obligations.StepRunsTheDecodedOperation : Prop :=
  ∀ (s : State) (i : Instr), nextTurn s = .engine → s.busy = true → decodeOp s.cmd = .ok i → i.wf = true →
    step s = exec i (takeTurn s) ∧ takeTurn s = { s with sched := (takeTurn s).sched }

/-- R181, R226 and log 8: the engine's turn while BUSY = 0 changes nothing of the engine. -/
def Obligations.IdleEngineKeepsItsState : Prop :=
  ∀ s : State, nextTurn s = .engine → s.busy = false → step s = .next { s with sched := (takeTurn s).sched }

/-- R90: the host's turn (log 6) runs the statement its program is at. That a host at HALT still has a turn, which leaves
everything as it is, is the model's choice (log 12): R90 only says that HALT ends the program. -/
def Obligations.HostTurnRunsItsStatement : Prop :=
  ∀ (s : State) (st : HostStmt), nextTurn s = .host → s.host.prog[s.host.pc]? = some st →
    step s = hostStmt st (takeTurn s) ∧ (st = .halt → step s = .next (takeTurn s))

/-- Log 16: a placed command word is the one the very next step runs. -/
def Obligations.PlacedCommandRunsNext : Prop :=
  ∀ (s : State) (i : Instr), i.wf = true →
    step (s.withFetchWord 32 (encode i).toNat) = exec i (takeTurn (s.withFetchWord 32 (encode i).toNat)) ∧
    decodeOp (s.withFetchWord 32 (encode i).toNat).cmd = .ok i ∧
    decodeTableWord 32 (encode i).toNat = some i

/-- R180: acceptance while BUSY = 0, and the write ignored, with WR_IGN set, while BUSY = 1. -/
def Obligations.CommandWriteIsAccepted : Prop :=
  (∀ (s : State) (v : Word), s.busy = false →
    ∃ t, memWrite s 0x000 4 v = some t ∧
      t.cmd = v ∧ t.busy = true ∧ t.done = false ∧ t.result = .ok ∧
      t.frameValid = (if v = 2#32 ∨ v = 3#32 ∨ v = 7#32 then false else s.frameValid) ∧
      (t.shadowPitch, t.shadowYaw, t.shadowDistance) =
        (if v = 4#32 then (s.cmdPitch, s.cmdYaw, s.cmdDistance)
         else (s.shadowPitch, s.shadowYaw, s.shadowDistance)) ∧
      t.seq = (if v = 5#32 then .read else if v = 6#32 then .write else if v = 7#32 then .waitReady else .exec) ∧
      t = { s with cmd := t.cmd, busy := t.busy, done := t.done, result := t.result, frameValid := t.frameValid,
                   shadowPitch := t.shadowPitch, shadowYaw := t.shadowYaw, shadowDistance := t.shadowDistance,
                   seq := t.seq }) ∧
  (∀ (s : State) (v : Word), s.busy = true → memWrite s 0x000 4 v = some { s with wrIgn := true })

/-- R82, R191: an illegal word is accepted like any other, starts in EXEC, and its engine step ends with ILLEGAL_OP and no
other effect. -/
def Obligations.IllegalWordEndsWithIllegalOp : Prop :=
  ∀ (s : State) (w : Word), (8 ≤ w.toNat % 16 ∨ w.toNat / 16 ≠ 0) → s.busy = false →
    memWrite s 0x000 4 w =
      some { s with cmd := w, busy := true, done := false, result := .ok, seq := .exec } ∧
    engineStep { s with cmd := w, busy := true, done := false, result := .ok, seq := .exec } =
      .next { s with cmd := w, busy := false, done := true, result := .illegalOp, seq := .idle }

/-! ### The checksum -/

/-- R100: the literal table is eight shift-register steps of its index, and its entries are distinct. -/
def Obligations.CrcTableIsEightShifts : Prop :=
  (∀ a : Byte, crcTable a = tableEntry a) ∧ (∀ a b : Byte, crcTable a = crcTable b → a = b)

/-- R102: the table-driven and the bitwise checksum agree on every list. -/
def Obligations.Crc8EqualsItsBitwiseForm : Prop :=
  ∀ bs : List Byte, crc8 bs = crc8Bitwise bs

/-- R104, its laws 2 to 5 (law 1, determinism, holds of every function). -/
def Obligations.Crc8Laws : Prop :=
  crc8 [] = 0xFF#8 ∧
  (∀ (bs : List Byte) (b : Byte), crc8 (bs ++ [b]) = crcTable (crc8 bs ^^^ b)) ∧
  (∀ p : List Byte, crc8 (p ++ [crc8 p]) = 0x00#8) ∧
  (∀ (p q : List Byte) (a b : Byte), a ≠ b → crc8 (p ++ a :: q) ≠ crc8 (p ++ b :: q))

/-- R105: CRC8 completes with the checksum of its span, said with the bitwise form of R102, or with BAD_ARG when the span
leaves the valid bytes. -/
def Obligations.Crc8OperationChecksumsItsSpan : Prop :=
  ∀ s : State, s.seq = .exec →
    (s.argOffset.toNat + s.argLength.toNat ≤ s.rxLen.toNat →
      exec .crc8 s =
        .next (ended { s with crcResult := crc8Bitwise (rxSpan s s.argOffset.toNat s.argLength.toNat) } .ok)) ∧
    (s.rxLen.toNat < s.argOffset.toNat + s.argLength.toNat → exec .crc8 s = .next (ended s .badArg))

/-! ### The frame codec -/

/-- R128: both round trips. -/
def Obligations.FramesRoundTrip : Prop :=
  (∀ p y d : Word, decodeCommand (encodeCommand p y d) = some { pitch := p, yaw := y, distance := d }) ∧
  (∀ f : List Byte, validTelemetry f = true → ∃ r, decodeTelemetry f = some r ∧ encodeTelemetry r = f)

/-- R129: the window at offset 0 of an outbound frame is never an inbound frame. -/
def Obligations.OutboundFrameIsNeverInbound : Prop :=
  ∀ p y d : Word, validTelemetry ((encodeCommand p y d).take 13) = false

/-- R86, R121 and R104 law 4: an encoded command frame has 14 bytes, the outbound sync byte, its fields in order, and
checksum zero over bytes 1 to 13. -/
def Obligations.EncodedFrameLayout : Prop :=
  ∀ p y d : Word,
    (encodeCommand p y d).length = 14 ∧
    (encodeCommand p y d).take 13 = 0xA5#8 :: (bytesLe32 p ++ bytesLe32 y ++ bytesLe32 d) ∧
    crc8 ((encodeCommand p y d).drop 1) = 0x00#8

/-- R11: the two byte assemblies are inverse to each other. -/
def Obligations.ByteAssemblyIsInverse : Prop :=
  (∀ w : Word, ∃ b0 b1 b2 b3, bytesLe32 w = [b0, b1, b2, b3] ∧ le32 b0 b1 b2 b3 = w) ∧
  (∀ b0 b1 b2 b3 : Byte, bytesLe32 (le32 b0 b1 b2 b3) = [b0, b1, b2, b3])

/-- R126 with R120, R123: DECODE completes with the frame at ARG.OFFSET, with NO_FRAME when that window is no frame, and
with BAD_ARG when it leaves the valid bytes. -/
def Obligations.DecodeOperationTakesItsCandidate : Prop :=
  ∀ s : State, s.seq = .exec →
    (frameAt s s.argOffset.toNat → exec .decode s = .next (ended (withFrame s s.argOffset.toNat) .ok)) ∧
    (s.argOffset.toNat + 13 ≤ s.rxLen.toNat → ¬ frameAt s s.argOffset.toNat →
      exec .decode s = .next (ended s .noFrame)) ∧
    (s.rxLen.toNat < s.argOffset.toNat + 13 → exec .decode s = .next (ended s .badArg))

/-- R127: ENCODE completes with the frame of the shadow command in TX, TX_LEN 14, and every byte outside TX as before. -/
def Obligations.EncodeOperationWritesTheFrame : Prop :=
  ∀ s : State, s.seq = .exec →
    ∃ t, exec .encode s = .next t ∧
      txSpan t 14 = encodeCommand s.shadowPitch s.shadowYaw s.shadowDistance ∧
      (∀ a, ¬ (0x200 ≤ a ∧ a < 0x20E) → regionByte t a = regionByte s a) ∧
      t = ended { s with mem := t.mem, txLen := 14#8 } .ok

/-! ### The frame synchronizer -/

/-- R153: the scan gives the largest accepted offset, and none exactly when there is none. -/
def Obligations.ScanGivesTheLargestAcceptedOffset : Prop :=
  ∀ bs : List Byte,
    (∀ i, scan bs = some i ↔
      (i + 13 ≤ bs.length ∧ acceptAt bs i = true ∧
        ∀ j, i < j → j + 13 ≤ bs.length → acceptAt bs j = false)) ∧
    (scan bs = none ↔ ∀ i, i + 13 ≤ bs.length → acceptAt bs i = false)

/-- R151: the acceptance test, byte by byte. -/
def Obligations.AcceptanceTestsSyncAndCheckByte : Prop :=
  ∀ (bs : List Byte) (i : Nat), i + 13 ≤ bs.length →
    (acceptAt bs i = true ↔
      (bs[i]? = some 0x5A#8 ∧ bs[i + 12]? = some (crc8 ((bs.drop (i + 1)).take 11))))

/-- R155 with R150, R152, R153: SCAN completes with the newest valid frame of RX[0..N-1], and with NO_FRAME when there is
none (a short buffer among these). -/
def Obligations.ScanOperationTakesTheNewestFrame : Prop :=
  ∀ s : State, s.seq = .exec →
    (∀ i, frameAt s i → (∀ j, i < j → ¬ frameAt s j) → exec .scan s = .next (ended (withFrame s i) .ok)) ∧
    ((∀ i, ¬ frameAt s i) → exec .scan s = .next (ended s .noFrame))

/-- R154, R105, R126, R40: the bytes of RX at indexes of RX_LEN.N or more never reach the result of CRC8, DECODE or SCAN. -/
def Obligations.BytesBeyondRxLenNeverMatter : Prop :=
  ∀ (s t : State) (m : List Host.Cell) (i : Instr), (i = .crc8 ∨ i = .decode ∨ i = .scan) →
    (∀ k, k < s.rxLen.toNat → rxByte { s with mem := m } k = rxByte s k) →
    exec i s = .next t → exec i { s with mem := m } = .next { t with mem := m }

/-! ### The link session -/

/-- R182: NOP completes with OK and no other effect. -/
def Obligations.NopOnlyCompletes : Prop :=
  ∀ s : State, s.seq = .exec → exec .nop s = .next (ended s .ok)

/-- R183 with R171: RX_READ completes with the bytes of the transport's answer in RX from index 0 on and RX_LEN their
number, or with RX_TERR and RX and RX_LEN as before. -/
def Obligations.RxReadFillsTheBuffer : Prop :=
  ∀ s : State, s.seq = .read →
    (readAnswer s = .err → exec .rxRead s = .next (ended (readLogged s .err) .rxTerr)) ∧
    (∀ bs, readAnswer s = .bytes bs →
      bs.length ≤ 255 ∧
      ∃ t, exec .rxRead s = .next t ∧
        rxSpan t 0 bs.length = bs ∧ t.rxLen.toNat = bs.length ∧
        (∀ a, ¬ (0x100 ≤ a ∧ a < 0x100 + bs.length) → regionByte t a = regionByte s a) ∧
        t = ended { readLogged s (.bytes bs) with mem := t.mem, rxLen := t.rxLen } .ok)

/-- R184 with R172: TX_WRITE hands TX[0..TX_LEN.N-1] to the transport and completes by its answer; with TX_LEN = 0 it
makes no request and completes with BAD_ARG. -/
def Obligations.TxWriteHandsOverTheFrame : Prop :=
  ∀ s : State, s.seq = .write →
    (s.txLen = 0#8 → exec .txWrite s = .next (ended s .badArg)) ∧
    (s.txLen ≠ 0#8 → writeAnswer s = .ok →
      exec .txWrite s = .next (ended (writeLogged s (txSpan s s.txLen.toNat) .ok) .ok)) ∧
    (∀ n, s.txLen ≠ 0#8 → writeAnswer s = .err n →
      exec .txWrite s = .next (ended (writeLogged s (txSpan s s.txLen.toNat) (.err n)) .txTerr))

/-- R186: the gate of CYCLE, and the wait while READY = 0, in which the model's turn leaves the state as it is (log 8). -/
def Obligations.CycleGateConsumesReady : Prop :=
  ∀ s : State, s.seq = .waitReady →
    (s.ready = true →
      exec .cycle s = .next { s with ready := false, shadowPitch := s.cmdPitch, shadowYaw := s.cmdYaw,
                                     shadowDistance := s.cmdDistance, seq := .read }) ∧
    (s.ready = false → exec .cycle s = .next s)

/-- R187: the READ step of CYCLE. -/
def Obligations.CycleReadFillsTheBuffer : Prop :=
  ∀ s : State, s.seq = .read →
    (readAnswer s = .err → exec .cycle s = .next (ended (readLogged s .err) .rxTerr)) ∧
    (∀ bs, readAnswer s = .bytes bs →
      ∃ t, exec .cycle s = .next t ∧
        rxSpan t 0 bs.length = bs ∧ t.rxLen.toNat = bs.length ∧
        (∀ a, ¬ (0x100 ≤ a ∧ a < 0x100 + bs.length) → regionByte t a = regionByte s a) ∧
        t = { readLogged s (.bytes bs) with mem := t.mem, rxLen := t.rxLen, seq := .scan })

/-- R188: the SCAN step of CYCLE commits the newest frame, if any, and raises CDONE either way. -/
def Obligations.CycleScanCommitsAndSignals : Prop :=
  ∀ s : State, s.seq = .scan →
    (∀ i, frameAt s i → (∀ j, i < j → ¬ frameAt s j) →
      exec .cycle s = .next { withFrame s i with cdone := true, seq := .encode }) ∧
    ((∀ i, ¬ frameAt s i) → exec .cycle s = .next { s with cdone := true, seq := .encode })

/-- R189: the ENCODE step of CYCLE, whether or not a frame was found. -/
def Obligations.CycleEncodeWritesTheFrame : Prop :=
  ∀ s : State, s.seq = .encode →
    ∃ t, exec .cycle s = .next t ∧
      txSpan t 14 = encodeCommand s.shadowPitch s.shadowYaw s.shadowDistance ∧
      (∀ a, ¬ (0x200 ≤ a ∧ a < 0x20E) → regionByte t a = regionByte s a) ∧
      t = { s with mem := t.mem, txLen := 14#8, seq := .write }

/-- R190, R172: the WRITE step of CYCLE, with the request and its answer recorded (R192). That the listed answer is used up
and the requests are counted is the model's form of the draw (log 5). -/
def Obligations.CycleWriteEndsTheCycle : Prop :=
  ∀ s : State, s.seq = .write →
    (writeAnswer s = .ok →
      exec .cycle s =
        .next (ended (writeLogged s (txSpan s 14) .ok) (if s.frameValid = true then .ok else .noFrame))) ∧
    (∀ n, writeAnswer s = .err n →
      exec .cycle s = .next (ended (writeLogged s (txSpan s 14) (.err n)) .txTerr))

/-- R185-R190, R193: a CYCLE whose gate is open, whose read answers the bytes `bs` and whose write answers Ok ends after five
engine steps: the newest frame of `bs` is delivered, CDONE is raised, and the frame of the command latched at the gate is
on the wire. The coming answers stand as hypotheses in the model's form of the draws (logs 4 and 5). -/
def Obligations.CycleRunsEndToEnd : Prop :=
  ∀ (s : State) (bs : List Byte) (rs : List ReadAnswer) (ws : List WriteAnswer),
    s.busy = true → decodeOp s.cmd = .ok .cycle → s.seq = .waitReady → s.ready = true → s.frameValid = false →
    bs.length ≤ 255 → s.port.reads = .bytes bs :: rs → s.port.writes = .ok :: ws →
    ∃ t, engineSteps 5 s = .next t ∧
      t.busy = false ∧ t.done = true ∧ t.seq = .idle ∧ t.ready = false ∧ t.cdone = true ∧
      rxSpan t 0 bs.length = bs ∧ t.rxLen.toNat = bs.length ∧
      (∀ i, scan bs = some i →
        t.result = .ok ∧ t.frameValid = true ∧
        telemetryRecord t = (telemetryOf (window bs i), BitVec.ofNat 8 i)) ∧
      (scan bs = none → t.result = .noFrame ∧ t.frameValid = false ∧ telemetryRecord t = telemetryRecord s) ∧
      txSpan t 14 = encodeCommand s.cmdPitch s.cmdYaw s.cmdDistance ∧ t.txLen = 14#8 ∧
      t.port.log = s.port.log ++
        [.read 255 (.bytes bs), .write (encodeCommand s.cmdPitch s.cmdYaw s.cmdDistance) .ok]

/-- R186, R250: while READY = 0 a CYCLE waits, for any number of the model's engine turns (log 8). -/
def Obligations.CycleWaitsWithoutReady : Prop :=
  ∀ (n : Nat) (s : State), s.busy = true → decodeOp s.cmd = .ok .cycle → s.seq = .waitReady → s.ready = false →
    engineSteps n s = .next s

/-- R193: every operation but CYCLE, and every illegal word, ends in one engine step, and CYCLE in at most five once READY
is posted. -/
def Obligations.OperationsEndInBoundedSteps : Prop :=
  (∀ s : State, Inv s → s.busy = true → decodeOp s.cmd ≠ .ok .cycle →
    ∃ t, engineStep s = .next t ∧ t.busy = false ∧ t.done = true ∧ t.seq = .idle) ∧
  (∀ s : State, s.busy = true → decodeOp s.cmd = .ok .cycle → s.seq = .waitReady → s.ready = true →
    ∃ n t, n ≤ 5 ∧ engineSteps n s = .next t ∧ t.busy = false ∧ t.done = true ∧ t.seq = .idle)

/-- R249, R43: after the command was latched, the CMD_* registers never reach an engine step; before it was latched, the
shadow command never does. -/
def Obligations.LatchSeparatesCommandAndShadow : Prop :=
  (∀ (i : Instr) (s t : State) (p y d : Word), (i = .cycle → s.seq ≠ .waitReady) → exec i s = .next t →
    exec i { s with cmdPitch := p, cmdYaw := y, cmdDistance := d } =
      .next { t with cmdPitch := p, cmdYaw := y, cmdDistance := d }) ∧
  (∀ (s t : State) (p y d : Word), s.seq = .waitReady → s.ready = true → exec .cycle s = .next t →
    exec .cycle { s with shadowPitch := p, shadowYaw := y, shadowDistance := d } = .next t) ∧
  (∀ (i : Instr) (s t : State) (p y d : Word), i ≠ .encode → i ≠ .cycle → exec i s = .next t →
    exec i { s with shadowPitch := p, shadowYaw := y, shadowDistance := d } =
      .next { t with shadowPitch := p, shadowYaw := y, shadowDistance := d })

/-! ### Frames of the operations -/

/-- R45, D30 and the operations' own rules: the registers an engine step of each operation leaves unchanged. -/
def Obligations.OperationsKeepOtherRegisters : Prop :=
  ∀ (i : Instr) (s t : State), exec i s = .next t →
    (t.cmd = s.cmd ∧ t.wrIgn = s.wrIgn ∧ t.argOffset = s.argOffset ∧ t.argLength = s.argLength ∧
      t.cmdPitch = s.cmdPitch ∧ t.cmdYaw = s.cmdYaw ∧ t.cmdDistance = s.cmdDistance ∧
      t.resets = s.resets ∧ t.host = s.host ∧ t.sched = s.sched) ∧
    (i ≠ .crc8 → t.crcResult = s.crcResult) ∧
    (i ≠ .decode → i ≠ .scan → (i = .cycle → s.seq ≠ .scan) →
      telemetryRecord t = telemetryRecord s ∧ t.frameValid = s.frameValid) ∧
    (i ≠ .rxRead → (i = .cycle → s.seq ≠ .read) → t.rxLen = s.rxLen) ∧
    (i ≠ .encode → (i = .cycle → s.seq ≠ .encode) → t.txLen = s.txLen) ∧
    ((i = .cycle → s.seq ≠ .waitReady) → t.ready = s.ready ∧
      t.shadowPitch = s.shadowPitch ∧ t.shadowYaw = s.shadowYaw ∧ t.shadowDistance = s.shadowDistance) ∧
    ((i = .cycle → s.seq ≠ .scan) → t.cdone = s.cdone) ∧
    (i ≠ .rxRead → i ≠ .txWrite → (i = .cycle → s.seq ≠ .read ∧ s.seq ≠ .write) → t.port = s.port)

/-- R71, R183, R127, R187, R189: the bytes of memory an engine step of each operation leaves unchanged: all of them, but
for TX in an encode step, and but for RX from index 0 on, as many bytes as the read answered, in a read step. -/
def Obligations.OperationsKeepOtherBytes : Prop :=
  ∀ (i : Instr) (s t : State), exec i s = .next t →
    ∀ a : Nat,
      ((i = .encode ∨ (i = .cycle ∧ s.seq = .encode)) → ¬ (0x200 ≤ a ∧ a < 0x200 + 14)) →
      ((i = .rxRead ∨ (i = .cycle ∧ s.seq = .read)) →
        ∀ bs, readAnswer s = .bytes bs → ¬ (0x100 ≤ a ∧ a < 0x100 + bs.length)) →
      regionByte t a = regionByte s a

/-- R216: an operation that ends with ILLEGAL_OP or BAD_ARG, and a read that ends RX_READ or CYCLE with RX_TERR, has changed
nothing in that step but the flags its end writes and, for the read, the transport record (R192). That the listed answer
is used up and the requests are counted is the model's form of the draw (log 4). -/
def Obligations.ErrorsArePrecise : Prop :=
  ∀ s t : State, s.busy = true → engineStep s = .next t → t.busy = false →
    ((t.result = .illegalOp ∨ t.result = .badArg) → t = ended s t.result) ∧
    (t.result = .rxTerr → t = ended (readLogged s .err) .rxTerr)

/-! ### The host's bus -/

/-- R61, R62: exactly the admitted accesses are answered; any other is a bus error for reads and writes alike. -/
def Obligations.OnlyAdmittedAccessesAreAnswered : Prop :=
  ∀ (s : State) (a n : Nat) (v : Word),
    ((memRead s a n).isSome = true ↔
      ((n = 4 ∧ a % 4 = 0 ∧ a < 0x400) ∨ (n = 1 ∧ 0x100 ≤ a ∧ a < 0x400))) ∧
    ((memWrite s a n v).isSome = true ↔
      ((n = 4 ∧ a % 4 = 0 ∧ a < 0x400) ∨ (n = 1 ∧ 0x100 ≤ a ∧ a < 0x400)))

/-- R62, R214: a host statement whose access is not admitted stops the run with a bus error (log 10). -/
def Obligations.BusErrorFaultsTheHost : Prop :=
  ∀ (s : State) (st : HostStmt) (a n : Nat), nextTurn s = .host → s.host.prog[s.host.pc]? = some st →
    st.access? = some (a, n) → admitted a n = false → step s = .fault .busError

/-- R61, R90: the host's step of a well-formed program never stops the run, and the program stays; past its last statement
the host has no step (log 12). -/
def Obligations.WellFormedHostProgramNeverFaults : Prop :=
  ∀ s : State, hostProgramWf s.host.prog = true →
    ∃ t, hostStep s = .next t ∧ t.host.prog = s.host.prog

/-- R63, R70, R90: a host read puts the value read into `t`, goes on, and changes nothing else. -/
def Obligations.HostReadsHaveNoSideEffects : Prop :=
  ∀ (s : State) (a : Nat),
    (admitted a 4 = true → ∃ v, memRead s a 4 = some v ∧
      hostStmt (.rd32 a) s = .next { s with host := { prog := s.host.prog, pc := s.host.pc + 1, t := v } }) ∧
    (admitted a 1 = true → ∃ v, memRead s a 1 = some v ∧
      hostStmt (.rd8 a) s = .next { s with host := { prog := s.host.prog, pc := s.host.pc + 1, t := v } })

/-- R90: BRNE and BREQ read 32 bits, mask them, and go to their label exactly when the comparison says so. -/
def Obligations.HostBranchesCompareMaskedReads : Prop :=
  ∀ (s : State) (a l k : Nat) (m v x : Word), memRead s a 4 = some x → findLabel l s.host.prog = some k →
    hostStmt (.brne a m v l) s =
      .next { s with host := { prog := s.host.prog, pc := if x &&& m = v then s.host.pc + 1 else k, t := x } } ∧
    hostStmt (.breq a m v l) s =
      .next { s with host := { prog := s.host.prog, pc := if x &&& m = v then k else s.host.pc + 1, t := x } }

/-- R22-R38, R63: the word a host reads at each of the fourteen register offsets, STATUS and HANDOFF bit by bit (R24-R26,
R37), ARG and TLM_FIELDS with their fields in place (R27, R33, R123). -/
def Obligations.RegisterWordFields : Prop :=
  ∀ s : State,
    (∃ w, memRead s 0x004 4 = some w ∧
      w.getLsbD 0 = s.busy ∧ w.getLsbD 1 = s.done ∧ w.getLsbD 2 = s.frameValid ∧ w.getLsbD 3 = s.wrIgn ∧
      w.toNat / 16 % 16 = 0 ∧
      w.toNat / 256 % 16 = (match s.result with
        | .ok => 0 | .noFrame => 1 | .rxTerr => 2 | .txTerr => 3 | .illegalOp => 4 | .badArg => 5) ∧
      w.toNat / 4096 % 16 = (match s.seq with
        | .idle => 0 | .exec => 1 | .waitReady => 2 | .read => 3 | .scan => 4 | .encode => 5 | .write => 6) ∧
      w.toNat / 65536 = 0) ∧
    (∃ w, memRead s 0x030 4 = some w ∧ w.getLsbD 0 = s.ready ∧ w.getLsbD 1 = s.cdone ∧ w.toNat / 4 = 0) ∧
    memRead s 0x000 4 = some s.cmd ∧
    memRead s 0x008 4 = some (s.argOffset.setWidth 32 ||| (s.argLength.setWidth 32 <<< 8)) ∧
    memRead s 0x00C 4 = some (s.rxLen.setWidth 32) ∧
    memRead s 0x010 4 = some (s.crcResult.setWidth 32) ∧
    memRead s 0x014 4 = some (s.frameOffset.setWidth 32) ∧
    memRead s 0x018 4 = some s.tlmGainYaw ∧
    memRead s 0x01C 4 = some s.tlmGainPitch ∧
    memRead s 0x020 4 =
      some (s.tlmMode.setWidth 32 ||| (s.tlmColor.setWidth 32 <<< 8) ||| (s.tlmSpeed.setWidth 32 <<< 16)) ∧
    memRead s 0x024 4 = some s.cmdPitch ∧
    memRead s 0x028 4 = some s.cmdYaw ∧
    memRead s 0x02C 4 = some s.cmdDistance ∧
    memRead s 0x034 4 = some (s.txLen.setWidth 32)

/-- R27, R28, R34-R37, R24, R48, R64: what a host reads back after an admitted register write, and that the write changes
the fields of the register written and nothing else. -/
def Obligations.RegisterWritesReadBack : Prop :=
  ∀ (s : State) (v : Word),
    (s.busy = false → ∃ t, memWrite s 0x008 4 v = some t ∧ memRead t 0x008 4 = some (v &&& 0xFFFF#32) ∧
      t = { s with argOffset := t.argOffset, argLength := t.argLength }) ∧
    (s.busy = false → ∃ t, memWrite s 0x00C 4 v = some t ∧ memRead t 0x00C 4 = some (v &&& 0xFF#32) ∧
      t = { s with rxLen := t.rxLen }) ∧
    (∃ t, memWrite s 0x024 4 v = some t ∧ memRead t 0x024 4 = some v ∧ t = { s with cmdPitch := t.cmdPitch }) ∧
    (∃ t, memWrite s 0x028 4 v = some t ∧ memRead t 0x028 4 = some v ∧ t = { s with cmdYaw := t.cmdYaw }) ∧
    (∃ t, memWrite s 0x02C 4 v = some t ∧ memRead t 0x02C 4 = some v ∧ t = { s with cmdDistance := t.cmdDistance }) ∧
    (∃ t old, memWrite s 0x004 4 v = some t ∧ memRead s 0x004 4 = some old ∧
      memRead t 0x004 4 = some (old &&& ~~~(v &&& 0xA#32)) ∧ t = { s with done := t.done, wrIgn := t.wrIgn }) ∧
    (∃ t old, memWrite s 0x030 4 v = some t ∧ memRead s 0x030 4 = some old ∧
      memRead t 0x030 4 = some ((old ||| (v &&& 0x1#32)) &&& ~~~(v &&& 0x2#32)) ∧
      t = { s with ready := t.ready, cdone := t.cdone })

/-- R22, R39, R65, R66 and, for a byte write to 0x1FF while BUSY = 1, log 15: writes to read-only and reserved offsets
change nothing, WR_IGN included, and reserved offsets read 0. -/
def Obligations.ReadOnlyAndReservedOffsetsIgnoreWrites : Prop :=
  (∀ (s : State) (a : Nat) (v : Word), a % 4 = 0 →
    (a ∈ [0x010, 0x014, 0x018, 0x01C, 0x020, 0x034] ∨ (0x038 ≤ a ∧ a < 0x100) ∨ (0x200 ≤ a ∧ a < 0x400)) →
    memWrite s a 4 v = some s) ∧
  (∀ (s : State) (a : Nat) (v : Word), 0x1FF ≤ a → a < 0x400 → memWrite s a 1 v = some s) ∧
  (∀ (s : State) (a : Nat), a % 4 = 0 → (0x038 ≤ a ∧ a < 0x100) ∨ (0x210 ≤ a ∧ a < 0x400) →
    memRead s a 4 = some 0#32) ∧
  (∀ (s : State) (a : Nat), a = 0x1FF ∨ (0x20E ≤ a ∧ a < 0x400) → memRead s a 1 = some 0#32)

/-- R213: a busy-locked write while BUSY = 1 sets WR_IGN and has no other effect, and WR_IGN then stays 1 until the host
writes STATUS with bit 3 = 1 or a reset. -/
def Obligations.BusyLockedWritesSetWrIgn : Prop :=
  (∀ (s : State) (a n : Nat) (v : Word), s.busy = true → admitted a n = true →
    (a = 0x000 ∨ a = 0x008 ∨ a = 0x00C ∨ (0x100 ≤ a ∧ a ≤ 0x1FE)) →
    memWrite s a n v = some { s with wrIgn := true }) ∧
  (∀ s t : State, step s = .next t → s.wrIgn = true → t.wrIgn = false →
    nextTurn s = .reset ∨
    (nextTurn s = .host ∧ ∃ v, s.host.prog[s.host.pc]? = some (.wr32 0x004 v) ∧ v.getLsbD 3 = true))

/-- R65, R66: the RX window, read and written by bytes and by words, while idle for the writes, and the TX window, read by
bytes and by words. -/
def Obligations.BufferWindowsAreReadAndWritten : Prop :=
  (∀ (s : State) (k : Nat), k ≤ 254 → memRead s (0x100 + k) 1 = some ((rxByte s k).setWidth 32)) ∧
  (∀ (s : State) (j : Nat), j < 64 →
    memRead s (0x100 + 4 * j) 4 =
      some (le32 (rxByte s (4 * j)) (rxByte s (4 * j + 1)) (rxByte s (4 * j + 2))
        (if j = 63 then 0#8 else rxByte s (4 * j + 3)))) ∧
  (∀ (s : State) (k : Nat) (v : Word), k ≤ 254 → s.busy = false →
    ∃ t, memWrite s (0x100 + k) 1 v = some t ∧ rxByte t k = v.setWidth 8 ∧
      (∀ a, a ≠ 0x100 + k → regionByte t a = regionByte s a) ∧ t = { s with mem := t.mem }) ∧
  (∀ (s : State) (j : Nat) (v : Word), j < 64 → s.busy = false →
    ∃ t, memWrite s (0x100 + 4 * j) 4 v = some t ∧
      (∀ m, m < 4 → 4 * j + m ≤ 254 → rxByte t (4 * j + m) = (v >>> (8 * m)).setWidth 8) ∧
      (∀ a, ¬ (0x100 + 4 * j ≤ a ∧ a < 0x100 + 4 * j + 4) → regionByte t a = regionByte s a) ∧
      t = { s with mem := t.mem }) ∧
  (∀ (s : State) (k : Nat), k ≤ 13 → memRead s (0x200 + k) 1 = some ((txByte s k).setWidth 32)) ∧
  (∀ (s : State) (j : Nat), j < 3 →
    memRead s (0x200 + 4 * j) 4 =
      some (le32 (txByte s (4 * j)) (txByte s (4 * j + 1)) (txByte s (4 * j + 2)) (txByte s (4 * j + 3)))) ∧
  (∀ s : State, memRead s 0x20C 4 = some (le32 (txByte s 12) (txByte s 13) 0#8 0#8))

/-- R60, U13: an access at BLOCK_BASE plus an offset is the access at that offset. -/
def Obligations.BlockBaseIsAddedToEveryOffset : Prop :=
  ∀ (s : State) (a n : Nat) (v : Word),
    busRead s (Config.blockBase + a) n = memRead s a n ∧ busWrite s (Config.blockBase + a) n v = memWrite s a n v

/-! ### The whole machine -/

/-- R46, R240-R243: right after reset every register reads 0 and the engine is idle, and the reset event, whatever the machine
is doing, leaves them so and does not touch the transport. That the host agent, its place in its program included, and the
transport's coming answers stay as they were is the model's choice (log 14). -/
def Obligations.ResetClearsEveryRegister : Prop :=
  (∀ a, a % 4 = 0 → a < 0x100 → memRead State.reset a 4 = some 0#32) ∧
  ∀ s : State, nextTurn s = .reset →
    ∃ t, step s = .next t ∧
      (∀ a, a % 4 = 0 → a < 0x100 → memRead t a 4 = some 0#32) ∧
      t.busy = false ∧ t.seq = .idle ∧ t.host = s.host ∧ t.port = s.port

/-- R25, R38, R180, R24 and log 2: the invariant holds right after reset. -/
def Obligations.ResetStateMeetsTheInvariant : Prop := Inv State.reset

/-- R25, R181, R38, R180, R24 and log 2: every step, of whichever agent, keeps the invariant: the canonical form of
memory, STATE = IDLE exactly while BUSY = 0, only the (STATE, op) pairs of R181, DONE = 0 and RESULT = 0 while BUSY = 1,
FRAME_VALID = 0 until the commit, TX_LEN 0 or 14, and a valid command frame in TX whenever it is 14. -/
def Obligations.EveryStepKeepsTheInvariant : Prop :=
  ∀ s t : State, Inv s → step s = .next t → Inv t

/-- R62, R71, R181, "Nothing in the engine is refused" (93 Part 1), logs 9, 10 and 12: from a state that meets the
invariant only the host's own program can stop the run, and nothing is refused. -/
def Obligations.OnlyTheHostCanFault : Prop :=
  ∀ s : State, Inv s →
    (∀ r, step s = .fault r → nextTurn s = .host ∧ (r = .busError ∨ r = .undefinedLabel)) ∧
    (∀ r, step s ≠ .refused r)

/-- R47: the telemetry registers and FRAME_OFFSET change, and FRAME_VALID rises, only in an engine step that takes them
all from one valid frame in RX; after reset they hold 0. -/
def Obligations.TelemetryComesFromOneFrame : Prop :=
  (∀ s t : State, nextTurn s ≠ .reset → step s = .next t →
    (telemetryRecord t ≠ telemetryRecord s ∨ (s.frameValid = false ∧ t.frameValid = true)) →
    nextTurn s = .engine ∧ t.frameValid = true ∧
      ∃ i, frameAt s i ∧ telemetryRecord t = telemetryRecord (withFrame s i)) ∧
  telemetryRecord State.reset = (⟨0#32, 0#32, 0#8, 0#8, 0#8⟩, 0#8) ∧ State.reset.frameValid = false

/-- R29: CRC_RESULT changes only in the engine step of a CRC8 that completes with OK, and then it is the checksum of its
span. -/
def Obligations.CrcResultIsWrittenByCrc8Alone : Prop :=
  ∀ s t : State, nextTurn s ≠ .reset → step s = .next t → t.crcResult ≠ s.crcResult →
    nextTurn s = .engine ∧ s.busy = true ∧ s.cmd = 1#32 ∧ t.result = .ok ∧
      t.crcResult = crc8 (rxSpan s s.argOffset.toNat s.argLength.toNat)

/-- R174, R175: READY rises only by the host's write of HANDOFF with bit 0, and falls only at a CYCLE's gate or by reset;
CDONE rises only in a CYCLE's SCAN step, and falls only by the host's write of HANDOFF with bit 1 or by reset. -/
def Obligations.HandoffTokensAreOneWay : Prop :=
  ∀ s t : State, step s = .next t →
    (s.ready = false → t.ready = true →
      nextTurn s = .host ∧ ∃ v, s.host.prog[s.host.pc]? = some (.wr32 0x030 v) ∧ v.getLsbD 0 = true) ∧
    (s.ready = true → t.ready = false →
      nextTurn s = .reset ∨
      (nextTurn s = .engine ∧ s.busy = true ∧ s.cmd = 7#32 ∧ s.seq = .waitReady ∧ t.seq = .read)) ∧
    (s.cdone = false → t.cdone = true →
      nextTurn s = .engine ∧ s.busy = true ∧ s.cmd = 7#32 ∧ s.seq = .scan) ∧
    (s.cdone = true → t.cdone = false →
      nextTurn s = .reset ∨
      (nextTurn s = .host ∧ ∃ v, s.host.prog[s.host.pc]? = some (.wr32 0x030 v) ∧ v.getLsbD 1 = true))

/-- R194, R248, R83: while an operation is in progress no host step changes its command, its operands, its buffers, its
place or its results. -/
def Obligations.HostCannotDisturbARunningOperation : Prop :=
  ∀ s t : State, nextTurn s = .host → s.busy = true → step s = .next t →
    t.cmd = s.cmd ∧ t.busy = true ∧ t.seq = s.seq ∧ t.result = s.result ∧ t.frameValid = s.frameValid ∧
    t.argOffset = s.argOffset ∧ t.argLength = s.argLength ∧ t.rxLen = s.rxLen ∧ t.mem = s.mem ∧
    t.crcResult = s.crcResult ∧ telemetryRecord t = telemetryRecord s ∧ t.txLen = s.txLen ∧
    t.shadowPitch = s.shadowPitch ∧ t.shadowYaw = s.shadowYaw ∧ t.shadowDistance = s.shadowDistance ∧
    t.port = s.port

/-- R170, R192: the port changes only in the engine's READ or WRITE step, by one request, recorded with its answer. That the
listed answer is used up and the requests are counted is the model's form of the draws (logs 4 and 5), and that a reset
leaves the port with its coming answers is the model's choice (log 14, after R243). -/
def Obligations.TransportIsUsedInReadAndWriteOnly : Prop :=
  ∀ s t : State, step s = .next t →
    t.port = s.port ∨
    (nextTurn s = .engine ∧ s.busy = true ∧
      ((s.seq = .read ∧ t.port = (readLogged s (readAnswer s)).port) ∨
       (s.seq = .write ∧ ∃ bs, t.port = (writeLogged s bs (writeAnswer s)).port)))

/-- R73, R14: DONE rises only in the engine step that ends the operation, together with everything that step writes. -/
def Obligations.DoneRisesWithCompletion : Prop :=
  ∀ s t : State, step s = .next t → s.done = false → t.done = true →
    nextTurn s = .engine ∧ s.busy = true ∧ t.busy = false ∧ t.seq = .idle

/-- R90 with R61, R64-R66: WR32 and WR8, as statements of the host's program, answer the state the write gives, with the host
at its next statement and `t` as before. -/
def Obligations.HostWritesStoreAndGoOn : Prop :=
  ∀ (s : State) (a : Nat) (v : Word),
    (admitted a 4 = true → ∃ t, memWrite s a 4 v = some t ∧
      hostStmt (.wr32 a v) s = .next { t with host := { prog := s.host.prog, pc := s.host.pc + 1, t := s.host.t } }) ∧
    (admitted a 1 = true → ∃ t, memWrite s a 1 v = some t ∧
      hostStmt (.wr8 a v) s = .next { t with host := { prog := s.host.prog, pc := s.host.pc + 1, t := s.host.t } })
end

