-- ==== Sys2Proof/Laws/Memory.lean ====
section
/-! SUPPORT. The laws of memory: what a byte reads as after a store, and that every memory operation keeps the canonical form
(log 2). -/

namespace Sys2Proof.Machine

/-- A read after a write: the byte written at its own offset, every other offset as before. -/
theorem memLookup_memStore (m : List Host.Cell) (a : Nat) (b : Byte) (x : Nat) :
    memLookup (memStore m a b) x = if x = a then some b else memLookup m x := by
  induction m with
  | nil =>
    by_cases h : x = a
    · simp [memStore, memLookup, h]
    · simp [memStore, memLookup, h, Ne.symm h]
  | cons c m ih =>
    by_cases hx : x = a
    · subst hx
      unfold memStore
      split
      · simp [memLookup]
      · split
        · simp [memLookup]
        · next h1 h2 => simp [memLookup, Ne.symm h2, ih]
    · unfold memStore
      split
      · simp [memLookup, Ne.symm hx]
      · split
        · next h1 h2 => simp [memLookup, Ne.symm hx, ← h2]
        · simp [memLookup, ih, hx]

/-- A read after consecutive writes: inside the span the byte written, outside it as before. -/
theorem memLookup_memStoreList (m : List Host.Cell) (a : Nat) (bs : List Byte) (x : Nat) :
    memLookup (memStoreList m a bs) x =
      if a ≤ x ∧ x < a + bs.length then bs[x - a]? else memLookup m x := by
  induction bs generalizing m a with
  | nil => simp only [memStoreList, List.length_nil]; rw [if_neg (by omega)]
  | cons b bs ih =>
    simp only [memStoreList, ih, memLookup_memStore, List.length_cons]
    by_cases h : x = a
    · subst h; simp
    · by_cases h' : a + 1 ≤ x ∧ x < a + 1 + bs.length
      · rw [if_pos h', if_pos (by omega)]
        obtain ⟨k, rfl⟩ : ∃ k, x = a + 1 + k := ⟨x - (a + 1), by omega⟩
        have e1 : a + 1 + k - (a + 1) = k := by omega
        have e2 : a + 1 + k - a = k + 1 := by omega
        rw [e1, e2, List.getElem?_cons_succ]
      · rw [if_neg h', if_neg h, if_neg (by omega)]

theorem memWfFrom_cons (lo : Nat) (c : Host.Cell) (m : List Host.Cell) :
    memWfFrom lo (c :: m) = true ↔ lo ≤ c.1 ∧ isBuffer c.1 = true ∧ memWfFrom (c.1 + 1) m = true := by
  simp [memWfFrom, and_assoc]

/-- One store keeps the canonical form from any offset not above it. -/
theorem memWfFrom_memStore {lo : Nat} {m : List Host.Cell} {a : Nat} (b : Byte)
    (h : memWfFrom lo m = true) (hlo : lo ≤ a) (ha : isBuffer a = true) :
    memWfFrom lo (memStore m a b) = true := by
  induction m generalizing lo with
  | nil => simp [memStore, memWfFrom, hlo, ha]
  | cons c m ih =>
    obtain ⟨h1, h2, h3⟩ := (memWfFrom_cons lo c m).1 h
    unfold memStore
    split
    · next hlt =>
      exact (memWfFrom_cons ..).2 ⟨hlo, ha, (memWfFrom_cons ..).2 ⟨hlt, h2, h3⟩⟩
    · next hlt =>
      split
      · next heq => exact (memWfFrom_cons ..).2 ⟨hlo, ha, by simpa [heq] using h3⟩
      · next hne => exact (memWfFrom_cons ..).2 ⟨h1, h2, ih h3 (by omega)⟩

/-- A store at a buffer offset keeps the canonical form. -/
theorem memWf_memStore {m : List Host.Cell} {a : Nat} (b : Byte) (h : memWf m = true) (ha : isBuffer a = true) :
    memWf (memStore m a b) = true :=
  memWfFrom_memStore b h (Nat.zero_le a) ha

/-- Consecutive stores at buffer offsets keep the canonical form. -/
theorem memWf_memStoreList {m : List Host.Cell} {a : Nat} {bs : List Byte} (h : memWf m = true)
    (ha : ∀ k, k < bs.length → isBuffer (a + k) = true) : memWf (memStoreList m a bs) = true := by
  induction bs generalizing m a with
  | nil => exact h
  | cons b bs ih =>
    refine ih (memWf_memStore b h (by simpa using ha 0 (by simp))) ?_
    intro k hk
    have := ha (k + 1) (by simpa using hk)
    rwa [show a + 1 + k = a + (k + 1) by omega]

/-- The memory after reset has the canonical form. -/
theorem memWf_reset : memWf State.reset.mem = true := rfl

theorem isBuffer_rx {k : Nat} (h : k ≤ 254) : isBuffer (0x100 + k) = true := by
  simp only [isBuffer, isRx, Bool.or_eq_true, Bool.and_eq_true, decide_eq_true_eq]; omega

theorem isBuffer_tx {k : Nat} (h : k ≤ 13) : isBuffer (0x200 + k) = true := by
  simp only [isBuffer, isTx, Bool.or_eq_true, Bool.and_eq_true, decide_eq_true_eq]; omega

theorem isBuffer_of_isRx {a : Nat} (h : isRx a = true) : isBuffer a = true := by simp [isBuffer, h]

/-- What a region byte reads as depends on the memory and the reset count alone. -/
theorem regionByte_congr {s t : State} (a : Nat) (hm : memLookup t.mem a = memLookup s.mem a)
    (hr : t.resets = s.resets) : regionByte t a = regionByte s a := by
  simp [regionByte, bufferByte, hm, hr]

/-- A region byte after consecutive stores in one window: the byte written inside the span, and outside it as
before. -/
theorem regionByte_memStoreList {s t : State} {a : Nat} {bs : List Byte} (x : Nat)
    (hm : t.mem = memStoreList s.mem a bs) (hr : t.resets = s.resets) :
    regionByte t x =
      if isBuffer x = true ∧ a ≤ x ∧ x < a + bs.length then bs.getD (x - a) 0#8 else regionByte s x := by
  unfold regionByte bufferByte
  rw [hm, hr, memLookup_memStoreList]
  by_cases hx : isBuffer x = true
  · by_cases hs : a ≤ x ∧ x < a + bs.length
    · rw [if_pos hx, if_pos hs, if_pos ⟨hx, hs⟩]
      have : x - a < bs.length := by omega
      simp [List.getD_eq_getElem?_getD, this]
    · rw [if_pos hx, if_neg hs, if_neg (by tauto), if_pos hx]
  · rw [if_neg hx, if_neg (by tauto), if_neg hx]

/-- The bytes a 32-bit or 8-bit host write leaves (R65): each RX byte of its span is the byte written, and every other
byte is as before; nothing but memory changes, and the canonical form stays. -/
theorem storeRx_spec (a : Nat) (bs : List Byte) (s : State) :
    storeRx a bs s = { s with mem := (storeRx a bs s).mem } ∧
    (∀ x, memLookup (storeRx a bs s).mem x =
      if isRx x = true ∧ a ≤ x ∧ x < a + bs.length then bs[x - a]? else memLookup s.mem x) ∧
    (memWf s.mem = true → memWf (storeRx a bs s).mem = true) := by
  induction bs generalizing a s with
  | nil =>
    refine ⟨rfl, fun x => ?_, id⟩
    rw [if_neg (by simp)]; rfl
  | cons b bs ih =>
    simp only [storeRx]
    obtain ⟨h1, h2, h3⟩ := ih (a + 1) (if isRx a then { s with mem := memStore s.mem a b } else s)
    refine ⟨?_, fun x => ?_, fun hw => h3 ?_⟩
    · rw [h1]; split <;> rfl
    · rw [h2]
      have key : memLookup (if isRx a = true then { s with mem := memStore s.mem a b } else s).mem x =
          if isRx x = true ∧ x = a then some b else memLookup s.mem x := by
        split
        · next ha =>
          simp only [memLookup_memStore]
          by_cases hx : x = a
          · subst hx; simp [ha]
          · simp [hx]
        · next ha =>
          rw [if_neg]
          rintro ⟨hx, rfl⟩
          exact ha hx
      rw [key]
      by_cases hr : isRx x = true
      · by_cases hx : x = a
        · subst hx; simp [hr]
        · simp only [hr, hx, true_and, and_false, if_false, List.length_cons]
          by_cases h' : a + 1 ≤ x ∧ x < a + 1 + bs.length
          · rw [if_pos h', if_pos (by omega)]
            obtain ⟨k, rfl⟩ : ∃ k, x = a + 1 + k := ⟨x - (a + 1), by omega⟩
            rw [show a + 1 + k - (a + 1) = k by omega, show a + 1 + k - a = k + 1 by omega,
              List.getElem?_cons_succ]
          · rw [if_neg h', if_neg (by omega)]
      · simp [hr]
    · split
      · next ha => exact memWf_memStore b hw (isBuffer_of_isRx ha)
      · exact hw

end Sys2Proof.Machine
end

