-- ==== Sys2Proof/Laws/PerInstr.lean ====
section
/-! SUPPORT. The laws stated per operation: the form of its command word (30_encoding.md R80-R82). -/

namespace Sys2Proof.Laws.WordForm

/-- The command word of an operation is legal, splits into its own OP and a zero MBZ, and is read as the same operation from its
opcode-table row of 32 bits. -/
def Statement (i : Instr) : Prop :=
  i.wf = true ∧ (commandFields (Sys2Proof.encode i)).wf = true ∧ commandFields (Sys2Proof.encode i) = ⟨opcode i, 0#28⟩ ∧
    decodeTableWord 32 (Sys2Proof.encode i).toNat = some i

theorem nop : Statement .nop := by unfold Statement; decide
theorem crc8 : Statement .crc8 := by unfold Statement; decide
theorem decode : Statement .decode := by unfold Statement; decide
theorem scan : Statement .scan := by unfold Statement; decide
theorem encode : Statement .encode := by unfold Statement; decide
theorem rxRead : Statement .rxRead := by unfold Statement; decide
theorem txWrite : Statement .txWrite := by unfold Statement; decide
theorem cycle : Statement .cycle := by unfold Statement; decide

end Sys2Proof.Laws.WordForm
end

