-- ==== Sys2Proof/Laws/State.lean ====
section
/-! SUPPORT. One lemma per field for each named update of the state: what the field is after the update. They are the simp set that
keeps later proofs from unfolding a record update. -/

namespace Sys2Proof.Machine

/-! ### complete -/

@[simp] theorem complete_cmd (c : ResultCode) (s : State) : (complete c s).cmd = s.cmd := rfl
@[simp] theorem complete_busy (c : ResultCode) (s : State) : (complete c s).busy = false := rfl
@[simp] theorem complete_done (c : ResultCode) (s : State) : (complete c s).done = true := rfl
@[simp] theorem complete_frameValid (c : ResultCode) (s : State) : (complete c s).frameValid = s.frameValid := rfl
@[simp] theorem complete_wrIgn (c : ResultCode) (s : State) : (complete c s).wrIgn = s.wrIgn := rfl
@[simp] theorem complete_result (c : ResultCode) (s : State) : (complete c s).result = c := rfl
@[simp] theorem complete_seq (c : ResultCode) (s : State) : (complete c s).seq = .idle := rfl
@[simp] theorem complete_argOffset (c : ResultCode) (s : State) : (complete c s).argOffset = s.argOffset := rfl
@[simp] theorem complete_argLength (c : ResultCode) (s : State) : (complete c s).argLength = s.argLength := rfl
@[simp] theorem complete_rxLen (c : ResultCode) (s : State) : (complete c s).rxLen = s.rxLen := rfl
@[simp] theorem complete_crcResult (c : ResultCode) (s : State) : (complete c s).crcResult = s.crcResult := rfl
@[simp] theorem complete_frameOffset (c : ResultCode) (s : State) : (complete c s).frameOffset = s.frameOffset := rfl
@[simp] theorem complete_tlmGainYaw (c : ResultCode) (s : State) : (complete c s).tlmGainYaw = s.tlmGainYaw := rfl
@[simp] theorem complete_tlmGainPitch (c : ResultCode) (s : State) :
    (complete c s).tlmGainPitch = s.tlmGainPitch := rfl
@[simp] theorem complete_tlmMode (c : ResultCode) (s : State) : (complete c s).tlmMode = s.tlmMode := rfl
@[simp] theorem complete_tlmColor (c : ResultCode) (s : State) : (complete c s).tlmColor = s.tlmColor := rfl
@[simp] theorem complete_tlmSpeed (c : ResultCode) (s : State) : (complete c s).tlmSpeed = s.tlmSpeed := rfl
@[simp] theorem complete_cmdPitch (c : ResultCode) (s : State) : (complete c s).cmdPitch = s.cmdPitch := rfl
@[simp] theorem complete_cmdYaw (c : ResultCode) (s : State) : (complete c s).cmdYaw = s.cmdYaw := rfl
@[simp] theorem complete_cmdDistance (c : ResultCode) (s : State) : (complete c s).cmdDistance = s.cmdDistance := rfl
@[simp] theorem complete_ready (c : ResultCode) (s : State) : (complete c s).ready = s.ready := rfl
@[simp] theorem complete_cdone (c : ResultCode) (s : State) : (complete c s).cdone = s.cdone := rfl
@[simp] theorem complete_txLen (c : ResultCode) (s : State) : (complete c s).txLen = s.txLen := rfl
@[simp] theorem complete_shadowPitch (c : ResultCode) (s : State) : (complete c s).shadowPitch = s.shadowPitch := rfl
@[simp] theorem complete_shadowYaw (c : ResultCode) (s : State) : (complete c s).shadowYaw = s.shadowYaw := rfl
@[simp] theorem complete_shadowDistance (c : ResultCode) (s : State) :
    (complete c s).shadowDistance = s.shadowDistance := rfl
@[simp] theorem complete_mem (c : ResultCode) (s : State) : (complete c s).mem = s.mem := rfl
@[simp] theorem complete_resets (c : ResultCode) (s : State) : (complete c s).resets = s.resets := rfl
@[simp] theorem complete_host (c : ResultCode) (s : State) : (complete c s).host = s.host := rfl
@[simp] theorem complete_port (c : ResultCode) (s : State) : (complete c s).port = s.port := rfl
@[simp] theorem complete_sched (c : ResultCode) (s : State) : (complete c s).sched = s.sched := rfl

/-! ### latchCommand -/

@[simp] theorem latchCommand_cmd (s : State) : (latchCommand s).cmd = s.cmd := rfl
@[simp] theorem latchCommand_busy (s : State) : (latchCommand s).busy = s.busy := rfl
@[simp] theorem latchCommand_done (s : State) : (latchCommand s).done = s.done := rfl
@[simp] theorem latchCommand_frameValid (s : State) : (latchCommand s).frameValid = s.frameValid := rfl
@[simp] theorem latchCommand_wrIgn (s : State) : (latchCommand s).wrIgn = s.wrIgn := rfl
@[simp] theorem latchCommand_result (s : State) : (latchCommand s).result = s.result := rfl
@[simp] theorem latchCommand_seq (s : State) : (latchCommand s).seq = s.seq := rfl
@[simp] theorem latchCommand_argOffset (s : State) : (latchCommand s).argOffset = s.argOffset := rfl
@[simp] theorem latchCommand_argLength (s : State) : (latchCommand s).argLength = s.argLength := rfl
@[simp] theorem latchCommand_rxLen (s : State) : (latchCommand s).rxLen = s.rxLen := rfl
@[simp] theorem latchCommand_crcResult (s : State) : (latchCommand s).crcResult = s.crcResult := rfl
@[simp] theorem latchCommand_frameOffset (s : State) : (latchCommand s).frameOffset = s.frameOffset := rfl
@[simp] theorem latchCommand_tlmGainYaw (s : State) : (latchCommand s).tlmGainYaw = s.tlmGainYaw := rfl
@[simp] theorem latchCommand_tlmGainPitch (s : State) : (latchCommand s).tlmGainPitch = s.tlmGainPitch := rfl
@[simp] theorem latchCommand_tlmMode (s : State) : (latchCommand s).tlmMode = s.tlmMode := rfl
@[simp] theorem latchCommand_tlmColor (s : State) : (latchCommand s).tlmColor = s.tlmColor := rfl
@[simp] theorem latchCommand_tlmSpeed (s : State) : (latchCommand s).tlmSpeed = s.tlmSpeed := rfl
@[simp] theorem latchCommand_cmdPitch (s : State) : (latchCommand s).cmdPitch = s.cmdPitch := rfl
@[simp] theorem latchCommand_cmdYaw (s : State) : (latchCommand s).cmdYaw = s.cmdYaw := rfl
@[simp] theorem latchCommand_cmdDistance (s : State) : (latchCommand s).cmdDistance = s.cmdDistance := rfl
@[simp] theorem latchCommand_ready (s : State) : (latchCommand s).ready = s.ready := rfl
@[simp] theorem latchCommand_cdone (s : State) : (latchCommand s).cdone = s.cdone := rfl
@[simp] theorem latchCommand_txLen (s : State) : (latchCommand s).txLen = s.txLen := rfl
@[simp] theorem latchCommand_shadowPitch (s : State) : (latchCommand s).shadowPitch = s.cmdPitch := rfl
@[simp] theorem latchCommand_shadowYaw (s : State) : (latchCommand s).shadowYaw = s.cmdYaw := rfl
@[simp] theorem latchCommand_shadowDistance (s : State) : (latchCommand s).shadowDistance = s.cmdDistance := rfl
@[simp] theorem latchCommand_mem (s : State) : (latchCommand s).mem = s.mem := rfl
@[simp] theorem latchCommand_resets (s : State) : (latchCommand s).resets = s.resets := rfl
@[simp] theorem latchCommand_host (s : State) : (latchCommand s).host = s.host := rfl
@[simp] theorem latchCommand_port (s : State) : (latchCommand s).port = s.port := rfl
@[simp] theorem latchCommand_sched (s : State) : (latchCommand s).sched = s.sched := rfl

/-! ### fillRx -/

@[simp] theorem fillRx_cmd (bs : List Byte) (s : State) : (fillRx bs s).cmd = s.cmd := rfl
@[simp] theorem fillRx_busy (bs : List Byte) (s : State) : (fillRx bs s).busy = s.busy := rfl
@[simp] theorem fillRx_done (bs : List Byte) (s : State) : (fillRx bs s).done = s.done := rfl
@[simp] theorem fillRx_frameValid (bs : List Byte) (s : State) : (fillRx bs s).frameValid = s.frameValid := rfl
@[simp] theorem fillRx_wrIgn (bs : List Byte) (s : State) : (fillRx bs s).wrIgn = s.wrIgn := rfl
@[simp] theorem fillRx_result (bs : List Byte) (s : State) : (fillRx bs s).result = s.result := rfl
@[simp] theorem fillRx_seq (bs : List Byte) (s : State) : (fillRx bs s).seq = s.seq := rfl
@[simp] theorem fillRx_argOffset (bs : List Byte) (s : State) : (fillRx bs s).argOffset = s.argOffset := rfl
@[simp] theorem fillRx_argLength (bs : List Byte) (s : State) : (fillRx bs s).argLength = s.argLength := rfl
@[simp] theorem fillRx_rxLen (bs : List Byte) (s : State) : (fillRx bs s).rxLen = s.rxLen := rfl
@[simp] theorem fillRx_crcResult (bs : List Byte) (s : State) : (fillRx bs s).crcResult = s.crcResult := rfl
@[simp] theorem fillRx_frameOffset (bs : List Byte) (s : State) : (fillRx bs s).frameOffset = s.frameOffset := rfl
@[simp] theorem fillRx_tlmGainYaw (bs : List Byte) (s : State) : (fillRx bs s).tlmGainYaw = s.tlmGainYaw := rfl
@[simp] theorem fillRx_tlmGainPitch (bs : List Byte) (s : State) : (fillRx bs s).tlmGainPitch = s.tlmGainPitch := rfl
@[simp] theorem fillRx_tlmMode (bs : List Byte) (s : State) : (fillRx bs s).tlmMode = s.tlmMode := rfl
@[simp] theorem fillRx_tlmColor (bs : List Byte) (s : State) : (fillRx bs s).tlmColor = s.tlmColor := rfl
@[simp] theorem fillRx_tlmSpeed (bs : List Byte) (s : State) : (fillRx bs s).tlmSpeed = s.tlmSpeed := rfl
@[simp] theorem fillRx_cmdPitch (bs : List Byte) (s : State) : (fillRx bs s).cmdPitch = s.cmdPitch := rfl
@[simp] theorem fillRx_cmdYaw (bs : List Byte) (s : State) : (fillRx bs s).cmdYaw = s.cmdYaw := rfl
@[simp] theorem fillRx_cmdDistance (bs : List Byte) (s : State) : (fillRx bs s).cmdDistance = s.cmdDistance := rfl
@[simp] theorem fillRx_ready (bs : List Byte) (s : State) : (fillRx bs s).ready = s.ready := rfl
@[simp] theorem fillRx_cdone (bs : List Byte) (s : State) : (fillRx bs s).cdone = s.cdone := rfl
@[simp] theorem fillRx_txLen (bs : List Byte) (s : State) : (fillRx bs s).txLen = s.txLen := rfl
@[simp] theorem fillRx_shadowPitch (bs : List Byte) (s : State) : (fillRx bs s).shadowPitch = s.shadowPitch := rfl
@[simp] theorem fillRx_shadowYaw (bs : List Byte) (s : State) : (fillRx bs s).shadowYaw = s.shadowYaw := rfl
@[simp] theorem fillRx_shadowDistance (bs : List Byte) (s : State) :
    (fillRx bs s).shadowDistance = s.shadowDistance := rfl
@[simp] theorem fillRx_mem (bs : List Byte) (s : State) : (fillRx bs s).mem = memStoreList s.mem 0x100 bs := rfl
@[simp] theorem fillRx_resets (bs : List Byte) (s : State) : (fillRx bs s).resets = s.resets := rfl
@[simp] theorem fillRx_host (bs : List Byte) (s : State) : (fillRx bs s).host = s.host := rfl
@[simp] theorem fillRx_port (bs : List Byte) (s : State) : (fillRx bs s).port = s.port := rfl
@[simp] theorem fillRx_sched (bs : List Byte) (s : State) : (fillRx bs s).sched = s.sched := rfl

/-! ### fillTx -/

@[simp] theorem fillTx_cmd (bs : List Byte) (s : State) : (fillTx bs s).cmd = s.cmd := rfl
@[simp] theorem fillTx_busy (bs : List Byte) (s : State) : (fillTx bs s).busy = s.busy := rfl
@[simp] theorem fillTx_done (bs : List Byte) (s : State) : (fillTx bs s).done = s.done := rfl
@[simp] theorem fillTx_frameValid (bs : List Byte) (s : State) : (fillTx bs s).frameValid = s.frameValid := rfl
@[simp] theorem fillTx_wrIgn (bs : List Byte) (s : State) : (fillTx bs s).wrIgn = s.wrIgn := rfl
@[simp] theorem fillTx_result (bs : List Byte) (s : State) : (fillTx bs s).result = s.result := rfl
@[simp] theorem fillTx_seq (bs : List Byte) (s : State) : (fillTx bs s).seq = s.seq := rfl
@[simp] theorem fillTx_argOffset (bs : List Byte) (s : State) : (fillTx bs s).argOffset = s.argOffset := rfl
@[simp] theorem fillTx_argLength (bs : List Byte) (s : State) : (fillTx bs s).argLength = s.argLength := rfl
@[simp] theorem fillTx_rxLen (bs : List Byte) (s : State) : (fillTx bs s).rxLen = s.rxLen := rfl
@[simp] theorem fillTx_crcResult (bs : List Byte) (s : State) : (fillTx bs s).crcResult = s.crcResult := rfl
@[simp] theorem fillTx_frameOffset (bs : List Byte) (s : State) : (fillTx bs s).frameOffset = s.frameOffset := rfl
@[simp] theorem fillTx_tlmGainYaw (bs : List Byte) (s : State) : (fillTx bs s).tlmGainYaw = s.tlmGainYaw := rfl
@[simp] theorem fillTx_tlmGainPitch (bs : List Byte) (s : State) : (fillTx bs s).tlmGainPitch = s.tlmGainPitch := rfl
@[simp] theorem fillTx_tlmMode (bs : List Byte) (s : State) : (fillTx bs s).tlmMode = s.tlmMode := rfl
@[simp] theorem fillTx_tlmColor (bs : List Byte) (s : State) : (fillTx bs s).tlmColor = s.tlmColor := rfl
@[simp] theorem fillTx_tlmSpeed (bs : List Byte) (s : State) : (fillTx bs s).tlmSpeed = s.tlmSpeed := rfl
@[simp] theorem fillTx_cmdPitch (bs : List Byte) (s : State) : (fillTx bs s).cmdPitch = s.cmdPitch := rfl
@[simp] theorem fillTx_cmdYaw (bs : List Byte) (s : State) : (fillTx bs s).cmdYaw = s.cmdYaw := rfl
@[simp] theorem fillTx_cmdDistance (bs : List Byte) (s : State) : (fillTx bs s).cmdDistance = s.cmdDistance := rfl
@[simp] theorem fillTx_ready (bs : List Byte) (s : State) : (fillTx bs s).ready = s.ready := rfl
@[simp] theorem fillTx_cdone (bs : List Byte) (s : State) : (fillTx bs s).cdone = s.cdone := rfl
@[simp] theorem fillTx_txLen (bs : List Byte) (s : State) : (fillTx bs s).txLen = 14#8 := rfl
@[simp] theorem fillTx_shadowPitch (bs : List Byte) (s : State) : (fillTx bs s).shadowPitch = s.shadowPitch := rfl
@[simp] theorem fillTx_shadowYaw (bs : List Byte) (s : State) : (fillTx bs s).shadowYaw = s.shadowYaw := rfl
@[simp] theorem fillTx_shadowDistance (bs : List Byte) (s : State) :
    (fillTx bs s).shadowDistance = s.shadowDistance := rfl
@[simp] theorem fillTx_mem (bs : List Byte) (s : State) : (fillTx bs s).mem = memStoreList s.mem 0x200 bs := rfl
@[simp] theorem fillTx_resets (bs : List Byte) (s : State) : (fillTx bs s).resets = s.resets := rfl
@[simp] theorem fillTx_host (bs : List Byte) (s : State) : (fillTx bs s).host = s.host := rfl
@[simp] theorem fillTx_port (bs : List Byte) (s : State) : (fillTx bs s).port = s.port := rfl
@[simp] theorem fillTx_sched (bs : List Byte) (s : State) : (fillTx bs s).sched = s.sched := rfl

/-! ### takeTurn -/

@[simp] theorem takeTurn_cmd (s : State) : (takeTurn s).cmd = s.cmd := rfl
@[simp] theorem takeTurn_busy (s : State) : (takeTurn s).busy = s.busy := rfl
@[simp] theorem takeTurn_done (s : State) : (takeTurn s).done = s.done := rfl
@[simp] theorem takeTurn_frameValid (s : State) : (takeTurn s).frameValid = s.frameValid := rfl
@[simp] theorem takeTurn_wrIgn (s : State) : (takeTurn s).wrIgn = s.wrIgn := rfl
@[simp] theorem takeTurn_result (s : State) : (takeTurn s).result = s.result := rfl
@[simp] theorem takeTurn_seq (s : State) : (takeTurn s).seq = s.seq := rfl
@[simp] theorem takeTurn_argOffset (s : State) : (takeTurn s).argOffset = s.argOffset := rfl
@[simp] theorem takeTurn_argLength (s : State) : (takeTurn s).argLength = s.argLength := rfl
@[simp] theorem takeTurn_rxLen (s : State) : (takeTurn s).rxLen = s.rxLen := rfl
@[simp] theorem takeTurn_crcResult (s : State) : (takeTurn s).crcResult = s.crcResult := rfl
@[simp] theorem takeTurn_frameOffset (s : State) : (takeTurn s).frameOffset = s.frameOffset := rfl
@[simp] theorem takeTurn_tlmGainYaw (s : State) : (takeTurn s).tlmGainYaw = s.tlmGainYaw := rfl
@[simp] theorem takeTurn_tlmGainPitch (s : State) : (takeTurn s).tlmGainPitch = s.tlmGainPitch := rfl
@[simp] theorem takeTurn_tlmMode (s : State) : (takeTurn s).tlmMode = s.tlmMode := rfl
@[simp] theorem takeTurn_tlmColor (s : State) : (takeTurn s).tlmColor = s.tlmColor := rfl
@[simp] theorem takeTurn_tlmSpeed (s : State) : (takeTurn s).tlmSpeed = s.tlmSpeed := rfl
@[simp] theorem takeTurn_cmdPitch (s : State) : (takeTurn s).cmdPitch = s.cmdPitch := rfl
@[simp] theorem takeTurn_cmdYaw (s : State) : (takeTurn s).cmdYaw = s.cmdYaw := rfl
@[simp] theorem takeTurn_cmdDistance (s : State) : (takeTurn s).cmdDistance = s.cmdDistance := rfl
@[simp] theorem takeTurn_ready (s : State) : (takeTurn s).ready = s.ready := rfl
@[simp] theorem takeTurn_cdone (s : State) : (takeTurn s).cdone = s.cdone := rfl
@[simp] theorem takeTurn_txLen (s : State) : (takeTurn s).txLen = s.txLen := rfl
@[simp] theorem takeTurn_shadowPitch (s : State) : (takeTurn s).shadowPitch = s.shadowPitch := rfl
@[simp] theorem takeTurn_shadowYaw (s : State) : (takeTurn s).shadowYaw = s.shadowYaw := rfl
@[simp] theorem takeTurn_shadowDistance (s : State) : (takeTurn s).shadowDistance = s.shadowDistance := rfl
@[simp] theorem takeTurn_mem (s : State) : (takeTurn s).mem = s.mem := rfl
@[simp] theorem takeTurn_resets (s : State) : (takeTurn s).resets = s.resets := rfl
@[simp] theorem takeTurn_host (s : State) : (takeTurn s).host = s.host := rfl
@[simp] theorem takeTurn_port (s : State) : (takeTurn s).port = s.port := rfl
@[simp] theorem takeTurn_sched (s : State) :
    (takeTurn s).sched = { turns := s.sched.turns.tail, count := s.sched.count + 1 } := rfl

/-! ### ignoreWrite -/

@[simp] theorem ignoreWrite_cmd (s : State) : (ignoreWrite s).cmd = s.cmd := rfl
@[simp] theorem ignoreWrite_busy (s : State) : (ignoreWrite s).busy = s.busy := rfl
@[simp] theorem ignoreWrite_done (s : State) : (ignoreWrite s).done = s.done := rfl
@[simp] theorem ignoreWrite_frameValid (s : State) : (ignoreWrite s).frameValid = s.frameValid := rfl
@[simp] theorem ignoreWrite_wrIgn (s : State) : (ignoreWrite s).wrIgn = true := rfl
@[simp] theorem ignoreWrite_result (s : State) : (ignoreWrite s).result = s.result := rfl
@[simp] theorem ignoreWrite_seq (s : State) : (ignoreWrite s).seq = s.seq := rfl
@[simp] theorem ignoreWrite_argOffset (s : State) : (ignoreWrite s).argOffset = s.argOffset := rfl
@[simp] theorem ignoreWrite_argLength (s : State) : (ignoreWrite s).argLength = s.argLength := rfl
@[simp] theorem ignoreWrite_rxLen (s : State) : (ignoreWrite s).rxLen = s.rxLen := rfl
@[simp] theorem ignoreWrite_crcResult (s : State) : (ignoreWrite s).crcResult = s.crcResult := rfl
@[simp] theorem ignoreWrite_frameOffset (s : State) : (ignoreWrite s).frameOffset = s.frameOffset := rfl
@[simp] theorem ignoreWrite_tlmGainYaw (s : State) : (ignoreWrite s).tlmGainYaw = s.tlmGainYaw := rfl
@[simp] theorem ignoreWrite_tlmGainPitch (s : State) : (ignoreWrite s).tlmGainPitch = s.tlmGainPitch := rfl
@[simp] theorem ignoreWrite_tlmMode (s : State) : (ignoreWrite s).tlmMode = s.tlmMode := rfl
@[simp] theorem ignoreWrite_tlmColor (s : State) : (ignoreWrite s).tlmColor = s.tlmColor := rfl
@[simp] theorem ignoreWrite_tlmSpeed (s : State) : (ignoreWrite s).tlmSpeed = s.tlmSpeed := rfl
@[simp] theorem ignoreWrite_cmdPitch (s : State) : (ignoreWrite s).cmdPitch = s.cmdPitch := rfl
@[simp] theorem ignoreWrite_cmdYaw (s : State) : (ignoreWrite s).cmdYaw = s.cmdYaw := rfl
@[simp] theorem ignoreWrite_cmdDistance (s : State) : (ignoreWrite s).cmdDistance = s.cmdDistance := rfl
@[simp] theorem ignoreWrite_ready (s : State) : (ignoreWrite s).ready = s.ready := rfl
@[simp] theorem ignoreWrite_cdone (s : State) : (ignoreWrite s).cdone = s.cdone := rfl
@[simp] theorem ignoreWrite_txLen (s : State) : (ignoreWrite s).txLen = s.txLen := rfl
@[simp] theorem ignoreWrite_shadowPitch (s : State) : (ignoreWrite s).shadowPitch = s.shadowPitch := rfl
@[simp] theorem ignoreWrite_shadowYaw (s : State) : (ignoreWrite s).shadowYaw = s.shadowYaw := rfl
@[simp] theorem ignoreWrite_shadowDistance (s : State) : (ignoreWrite s).shadowDistance = s.shadowDistance := rfl
@[simp] theorem ignoreWrite_mem (s : State) : (ignoreWrite s).mem = s.mem := rfl
@[simp] theorem ignoreWrite_resets (s : State) : (ignoreWrite s).resets = s.resets := rfl
@[simp] theorem ignoreWrite_host (s : State) : (ignoreWrite s).host = s.host := rfl
@[simp] theorem ignoreWrite_port (s : State) : (ignoreWrite s).port = s.port := rfl
@[simp] theorem ignoreWrite_sched (s : State) : (ignoreWrite s).sched = s.sched := rfl

/-! ### writeStatus -/

@[simp] theorem writeStatus_cmd (v : Word) (s : State) : (writeStatus v s).cmd = s.cmd := rfl
@[simp] theorem writeStatus_busy (v : Word) (s : State) : (writeStatus v s).busy = s.busy := rfl
@[simp] theorem writeStatus_done (v : Word) (s : State) : (writeStatus v s).done = (s.done && !v.getLsbD 1) := rfl
@[simp] theorem writeStatus_frameValid (v : Word) (s : State) : (writeStatus v s).frameValid = s.frameValid := rfl
@[simp] theorem writeStatus_wrIgn (v : Word) (s : State) : (writeStatus v s).wrIgn = (s.wrIgn && !v.getLsbD 3) := rfl
@[simp] theorem writeStatus_result (v : Word) (s : State) : (writeStatus v s).result = s.result := rfl
@[simp] theorem writeStatus_seq (v : Word) (s : State) : (writeStatus v s).seq = s.seq := rfl
@[simp] theorem writeStatus_argOffset (v : Word) (s : State) : (writeStatus v s).argOffset = s.argOffset := rfl
@[simp] theorem writeStatus_argLength (v : Word) (s : State) : (writeStatus v s).argLength = s.argLength := rfl
@[simp] theorem writeStatus_rxLen (v : Word) (s : State) : (writeStatus v s).rxLen = s.rxLen := rfl
@[simp] theorem writeStatus_crcResult (v : Word) (s : State) : (writeStatus v s).crcResult = s.crcResult := rfl
@[simp] theorem writeStatus_frameOffset (v : Word) (s : State) : (writeStatus v s).frameOffset = s.frameOffset := rfl
@[simp] theorem writeStatus_tlmGainYaw (v : Word) (s : State) : (writeStatus v s).tlmGainYaw = s.tlmGainYaw := rfl
@[simp] theorem writeStatus_tlmGainPitch (v : Word) (s : State) :
    (writeStatus v s).tlmGainPitch = s.tlmGainPitch := rfl
@[simp] theorem writeStatus_tlmMode (v : Word) (s : State) : (writeStatus v s).tlmMode = s.tlmMode := rfl
@[simp] theorem writeStatus_tlmColor (v : Word) (s : State) : (writeStatus v s).tlmColor = s.tlmColor := rfl
@[simp] theorem writeStatus_tlmSpeed (v : Word) (s : State) : (writeStatus v s).tlmSpeed = s.tlmSpeed := rfl
@[simp] theorem writeStatus_cmdPitch (v : Word) (s : State) : (writeStatus v s).cmdPitch = s.cmdPitch := rfl
@[simp] theorem writeStatus_cmdYaw (v : Word) (s : State) : (writeStatus v s).cmdYaw = s.cmdYaw := rfl
@[simp] theorem writeStatus_cmdDistance (v : Word) (s : State) : (writeStatus v s).cmdDistance = s.cmdDistance := rfl
@[simp] theorem writeStatus_ready (v : Word) (s : State) : (writeStatus v s).ready = s.ready := rfl
@[simp] theorem writeStatus_cdone (v : Word) (s : State) : (writeStatus v s).cdone = s.cdone := rfl
@[simp] theorem writeStatus_txLen (v : Word) (s : State) : (writeStatus v s).txLen = s.txLen := rfl
@[simp] theorem writeStatus_shadowPitch (v : Word) (s : State) : (writeStatus v s).shadowPitch = s.shadowPitch := rfl
@[simp] theorem writeStatus_shadowYaw (v : Word) (s : State) : (writeStatus v s).shadowYaw = s.shadowYaw := rfl
@[simp] theorem writeStatus_shadowDistance (v : Word) (s : State) :
    (writeStatus v s).shadowDistance = s.shadowDistance := rfl
@[simp] theorem writeStatus_mem (v : Word) (s : State) : (writeStatus v s).mem = s.mem := rfl
@[simp] theorem writeStatus_resets (v : Word) (s : State) : (writeStatus v s).resets = s.resets := rfl
@[simp] theorem writeStatus_host (v : Word) (s : State) : (writeStatus v s).host = s.host := rfl
@[simp] theorem writeStatus_port (v : Word) (s : State) : (writeStatus v s).port = s.port := rfl
@[simp] theorem writeStatus_sched (v : Word) (s : State) : (writeStatus v s).sched = s.sched := rfl

/-! ### writeHandoff -/

@[simp] theorem writeHandoff_cmd (v : Word) (s : State) : (writeHandoff v s).cmd = s.cmd := rfl
@[simp] theorem writeHandoff_busy (v : Word) (s : State) : (writeHandoff v s).busy = s.busy := rfl
@[simp] theorem writeHandoff_done (v : Word) (s : State) : (writeHandoff v s).done = s.done := rfl
@[simp] theorem writeHandoff_frameValid (v : Word) (s : State) : (writeHandoff v s).frameValid = s.frameValid := rfl
@[simp] theorem writeHandoff_wrIgn (v : Word) (s : State) : (writeHandoff v s).wrIgn = s.wrIgn := rfl
@[simp] theorem writeHandoff_result (v : Word) (s : State) : (writeHandoff v s).result = s.result := rfl
@[simp] theorem writeHandoff_seq (v : Word) (s : State) : (writeHandoff v s).seq = s.seq := rfl
@[simp] theorem writeHandoff_argOffset (v : Word) (s : State) : (writeHandoff v s).argOffset = s.argOffset := rfl
@[simp] theorem writeHandoff_argLength (v : Word) (s : State) : (writeHandoff v s).argLength = s.argLength := rfl
@[simp] theorem writeHandoff_rxLen (v : Word) (s : State) : (writeHandoff v s).rxLen = s.rxLen := rfl
@[simp] theorem writeHandoff_crcResult (v : Word) (s : State) : (writeHandoff v s).crcResult = s.crcResult := rfl
@[simp] theorem writeHandoff_frameOffset (v : Word) (s : State) :
    (writeHandoff v s).frameOffset = s.frameOffset := rfl
@[simp] theorem writeHandoff_tlmGainYaw (v : Word) (s : State) : (writeHandoff v s).tlmGainYaw = s.tlmGainYaw := rfl
@[simp] theorem writeHandoff_tlmGainPitch (v : Word) (s : State) :
    (writeHandoff v s).tlmGainPitch = s.tlmGainPitch := rfl
@[simp] theorem writeHandoff_tlmMode (v : Word) (s : State) : (writeHandoff v s).tlmMode = s.tlmMode := rfl
@[simp] theorem writeHandoff_tlmColor (v : Word) (s : State) : (writeHandoff v s).tlmColor = s.tlmColor := rfl
@[simp] theorem writeHandoff_tlmSpeed (v : Word) (s : State) : (writeHandoff v s).tlmSpeed = s.tlmSpeed := rfl
@[simp] theorem writeHandoff_cmdPitch (v : Word) (s : State) : (writeHandoff v s).cmdPitch = s.cmdPitch := rfl
@[simp] theorem writeHandoff_cmdYaw (v : Word) (s : State) : (writeHandoff v s).cmdYaw = s.cmdYaw := rfl
@[simp] theorem writeHandoff_cmdDistance (v : Word) (s : State) :
    (writeHandoff v s).cmdDistance = s.cmdDistance := rfl
@[simp] theorem writeHandoff_ready (v : Word) (s : State) : (writeHandoff v s).ready = (s.ready || v.getLsbD 0) := rfl
@[simp] theorem writeHandoff_cdone (v : Word) (s : State) :
    (writeHandoff v s).cdone = (s.cdone && !v.getLsbD 1) := rfl
@[simp] theorem writeHandoff_txLen (v : Word) (s : State) : (writeHandoff v s).txLen = s.txLen := rfl
@[simp] theorem writeHandoff_shadowPitch (v : Word) (s : State) :
    (writeHandoff v s).shadowPitch = s.shadowPitch := rfl
@[simp] theorem writeHandoff_shadowYaw (v : Word) (s : State) : (writeHandoff v s).shadowYaw = s.shadowYaw := rfl
@[simp] theorem writeHandoff_shadowDistance (v : Word) (s : State) :
    (writeHandoff v s).shadowDistance = s.shadowDistance := rfl
@[simp] theorem writeHandoff_mem (v : Word) (s : State) : (writeHandoff v s).mem = s.mem := rfl
@[simp] theorem writeHandoff_resets (v : Word) (s : State) : (writeHandoff v s).resets = s.resets := rfl
@[simp] theorem writeHandoff_host (v : Word) (s : State) : (writeHandoff v s).host = s.host := rfl
@[simp] theorem writeHandoff_port (v : Word) (s : State) : (writeHandoff v s).port = s.port := rfl
@[simp] theorem writeHandoff_sched (v : Word) (s : State) : (writeHandoff v s).sched = s.sched := rfl

/-! ### acceptCommand -/

@[simp] theorem acceptCommand_cmd (v : Word) (s : State) : (acceptCommand v s).cmd = v := rfl
@[simp] theorem acceptCommand_busy (v : Word) (s : State) : (acceptCommand v s).busy = true := rfl
@[simp] theorem acceptCommand_done (v : Word) (s : State) : (acceptCommand v s).done = false := rfl
@[simp] theorem acceptCommand_frameValid (v : Word) (s : State) :
    (acceptCommand v s).frameValid = (if clearsFrameValid (decodeOp v) then false else s.frameValid) := rfl
@[simp] theorem acceptCommand_wrIgn (v : Word) (s : State) : (acceptCommand v s).wrIgn = s.wrIgn := rfl
@[simp] theorem acceptCommand_result (v : Word) (s : State) : (acceptCommand v s).result = .ok := rfl
@[simp] theorem acceptCommand_seq (v : Word) (s : State) : (acceptCommand v s).seq = firstState (decodeOp v) := rfl
@[simp] theorem acceptCommand_argOffset (v : Word) (s : State) : (acceptCommand v s).argOffset = s.argOffset := rfl
@[simp] theorem acceptCommand_argLength (v : Word) (s : State) : (acceptCommand v s).argLength = s.argLength := rfl
@[simp] theorem acceptCommand_rxLen (v : Word) (s : State) : (acceptCommand v s).rxLen = s.rxLen := rfl
@[simp] theorem acceptCommand_crcResult (v : Word) (s : State) : (acceptCommand v s).crcResult = s.crcResult := rfl
@[simp] theorem acceptCommand_frameOffset (v : Word) (s : State) :
    (acceptCommand v s).frameOffset = s.frameOffset := rfl
@[simp] theorem acceptCommand_tlmGainYaw (v : Word) (s : State) : (acceptCommand v s).tlmGainYaw = s.tlmGainYaw := rfl
@[simp] theorem acceptCommand_tlmGainPitch (v : Word) (s : State) :
    (acceptCommand v s).tlmGainPitch = s.tlmGainPitch := rfl
@[simp] theorem acceptCommand_tlmMode (v : Word) (s : State) : (acceptCommand v s).tlmMode = s.tlmMode := rfl
@[simp] theorem acceptCommand_tlmColor (v : Word) (s : State) : (acceptCommand v s).tlmColor = s.tlmColor := rfl
@[simp] theorem acceptCommand_tlmSpeed (v : Word) (s : State) : (acceptCommand v s).tlmSpeed = s.tlmSpeed := rfl
@[simp] theorem acceptCommand_cmdPitch (v : Word) (s : State) : (acceptCommand v s).cmdPitch = s.cmdPitch := rfl
@[simp] theorem acceptCommand_cmdYaw (v : Word) (s : State) : (acceptCommand v s).cmdYaw = s.cmdYaw := rfl
@[simp] theorem acceptCommand_cmdDistance (v : Word) (s : State) :
    (acceptCommand v s).cmdDistance = s.cmdDistance := rfl
@[simp] theorem acceptCommand_ready (v : Word) (s : State) : (acceptCommand v s).ready = s.ready := rfl
@[simp] theorem acceptCommand_cdone (v : Word) (s : State) : (acceptCommand v s).cdone = s.cdone := rfl
@[simp] theorem acceptCommand_txLen (v : Word) (s : State) : (acceptCommand v s).txLen = s.txLen := rfl
@[simp] theorem acceptCommand_shadowPitch (v : Word) (s : State) :
    (acceptCommand v s).shadowPitch = (if latchesAtAcceptance (decodeOp v) then s.cmdPitch else s.shadowPitch) := rfl
@[simp] theorem acceptCommand_shadowYaw (v : Word) (s : State) :
    (acceptCommand v s).shadowYaw = (if latchesAtAcceptance (decodeOp v) then s.cmdYaw else s.shadowYaw) := rfl
@[simp] theorem acceptCommand_shadowDistance (v : Word) (s : State) :
    (acceptCommand v s).shadowDistance = (if latchesAtAcceptance (decodeOp v) then s.cmdDistance else s.shadowDistance) :=
  rfl
@[simp] theorem acceptCommand_mem (v : Word) (s : State) : (acceptCommand v s).mem = s.mem := rfl
@[simp] theorem acceptCommand_resets (v : Word) (s : State) : (acceptCommand v s).resets = s.resets := rfl
@[simp] theorem acceptCommand_host (v : Word) (s : State) : (acceptCommand v s).host = s.host := rfl
@[simp] theorem acceptCommand_port (v : Word) (s : State) : (acceptCommand v s).port = s.port := rfl
@[simp] theorem acceptCommand_sched (v : Word) (s : State) : (acceptCommand v s).sched = s.sched := rfl

/-! ### commitTelemetry -/

@[simp] theorem commitTelemetry_cmd (i : Nat) (r : Telemetry) (s : State) : (commitTelemetry i r s).cmd = s.cmd := rfl
@[simp] theorem commitTelemetry_busy (i : Nat) (r : Telemetry) (s : State) :
    (commitTelemetry i r s).busy = s.busy := rfl
@[simp] theorem commitTelemetry_done (i : Nat) (r : Telemetry) (s : State) :
    (commitTelemetry i r s).done = s.done := rfl
@[simp] theorem commitTelemetry_frameValid (i : Nat) (r : Telemetry) (s : State) :
    (commitTelemetry i r s).frameValid = true := rfl
@[simp] theorem commitTelemetry_wrIgn (i : Nat) (r : Telemetry) (s : State) :
    (commitTelemetry i r s).wrIgn = s.wrIgn := rfl
@[simp] theorem commitTelemetry_result (i : Nat) (r : Telemetry) (s : State) :
    (commitTelemetry i r s).result = s.result := rfl
@[simp] theorem commitTelemetry_seq (i : Nat) (r : Telemetry) (s : State) : (commitTelemetry i r s).seq = s.seq := rfl
@[simp] theorem commitTelemetry_argOffset (i : Nat) (r : Telemetry) (s : State) :
    (commitTelemetry i r s).argOffset = s.argOffset := rfl
@[simp] theorem commitTelemetry_argLength (i : Nat) (r : Telemetry) (s : State) :
    (commitTelemetry i r s).argLength = s.argLength := rfl
@[simp] theorem commitTelemetry_rxLen (i : Nat) (r : Telemetry) (s : State) :
    (commitTelemetry i r s).rxLen = s.rxLen := rfl
@[simp] theorem commitTelemetry_crcResult (i : Nat) (r : Telemetry) (s : State) :
    (commitTelemetry i r s).crcResult = s.crcResult := rfl
@[simp] theorem commitTelemetry_frameOffset (i : Nat) (r : Telemetry) (s : State) :
    (commitTelemetry i r s).frameOffset = BitVec.ofNat 8 i := rfl
@[simp] theorem commitTelemetry_tlmGainYaw (i : Nat) (r : Telemetry) (s : State) :
    (commitTelemetry i r s).tlmGainYaw = r.gainYaw := rfl
@[simp] theorem commitTelemetry_tlmGainPitch (i : Nat) (r : Telemetry) (s : State) :
    (commitTelemetry i r s).tlmGainPitch = r.gainPitch := rfl
@[simp] theorem commitTelemetry_tlmMode (i : Nat) (r : Telemetry) (s : State) :
    (commitTelemetry i r s).tlmMode = r.mode := rfl
@[simp] theorem commitTelemetry_tlmColor (i : Nat) (r : Telemetry) (s : State) :
    (commitTelemetry i r s).tlmColor = r.color := rfl
@[simp] theorem commitTelemetry_tlmSpeed (i : Nat) (r : Telemetry) (s : State) :
    (commitTelemetry i r s).tlmSpeed = r.speed := rfl
@[simp] theorem commitTelemetry_cmdPitch (i : Nat) (r : Telemetry) (s : State) :
    (commitTelemetry i r s).cmdPitch = s.cmdPitch := rfl
@[simp] theorem commitTelemetry_cmdYaw (i : Nat) (r : Telemetry) (s : State) :
    (commitTelemetry i r s).cmdYaw = s.cmdYaw := rfl
@[simp] theorem commitTelemetry_cmdDistance (i : Nat) (r : Telemetry) (s : State) :
    (commitTelemetry i r s).cmdDistance = s.cmdDistance := rfl
@[simp] theorem commitTelemetry_ready (i : Nat) (r : Telemetry) (s : State) :
    (commitTelemetry i r s).ready = s.ready := rfl
@[simp] theorem commitTelemetry_cdone (i : Nat) (r : Telemetry) (s : State) :
    (commitTelemetry i r s).cdone = s.cdone := rfl
@[simp] theorem commitTelemetry_txLen (i : Nat) (r : Telemetry) (s : State) :
    (commitTelemetry i r s).txLen = s.txLen := rfl
@[simp] theorem commitTelemetry_shadowPitch (i : Nat) (r : Telemetry) (s : State) :
    (commitTelemetry i r s).shadowPitch = s.shadowPitch := rfl
@[simp] theorem commitTelemetry_shadowYaw (i : Nat) (r : Telemetry) (s : State) :
    (commitTelemetry i r s).shadowYaw = s.shadowYaw := rfl
@[simp] theorem commitTelemetry_shadowDistance (i : Nat) (r : Telemetry) (s : State) :
    (commitTelemetry i r s).shadowDistance = s.shadowDistance := rfl
@[simp] theorem commitTelemetry_mem (i : Nat) (r : Telemetry) (s : State) : (commitTelemetry i r s).mem = s.mem := rfl
@[simp] theorem commitTelemetry_resets (i : Nat) (r : Telemetry) (s : State) :
    (commitTelemetry i r s).resets = s.resets := rfl
@[simp] theorem commitTelemetry_host (i : Nat) (r : Telemetry) (s : State) :
    (commitTelemetry i r s).host = s.host := rfl
@[simp] theorem commitTelemetry_port (i : Nat) (r : Telemetry) (s : State) :
    (commitTelemetry i r s).port = s.port := rfl
@[simp] theorem commitTelemetry_sched (i : Nat) (r : Telemetry) (s : State) :
    (commitTelemetry i r s).sched = s.sched := rfl

/-! ### encodeShadow -/

@[simp] theorem encodeShadow_cmd (s : State) : (encodeShadow s).cmd = s.cmd := fillTx_cmd _ _
@[simp] theorem encodeShadow_busy (s : State) : (encodeShadow s).busy = s.busy := fillTx_busy _ _
@[simp] theorem encodeShadow_done (s : State) : (encodeShadow s).done = s.done := fillTx_done _ _
@[simp] theorem encodeShadow_frameValid (s : State) : (encodeShadow s).frameValid = s.frameValid :=
  fillTx_frameValid _ _
@[simp] theorem encodeShadow_wrIgn (s : State) : (encodeShadow s).wrIgn = s.wrIgn := fillTx_wrIgn _ _
@[simp] theorem encodeShadow_result (s : State) : (encodeShadow s).result = s.result := fillTx_result _ _
@[simp] theorem encodeShadow_seq (s : State) : (encodeShadow s).seq = s.seq := fillTx_seq _ _
@[simp] theorem encodeShadow_argOffset (s : State) : (encodeShadow s).argOffset = s.argOffset := fillTx_argOffset _ _
@[simp] theorem encodeShadow_argLength (s : State) : (encodeShadow s).argLength = s.argLength := fillTx_argLength _ _
@[simp] theorem encodeShadow_rxLen (s : State) : (encodeShadow s).rxLen = s.rxLen := fillTx_rxLen _ _
@[simp] theorem encodeShadow_crcResult (s : State) : (encodeShadow s).crcResult = s.crcResult := fillTx_crcResult _ _
@[simp] theorem encodeShadow_frameOffset (s : State) : (encodeShadow s).frameOffset = s.frameOffset :=
  fillTx_frameOffset _ _
@[simp] theorem encodeShadow_tlmGainYaw (s : State) : (encodeShadow s).tlmGainYaw = s.tlmGainYaw :=
  fillTx_tlmGainYaw _ _
@[simp] theorem encodeShadow_tlmGainPitch (s : State) : (encodeShadow s).tlmGainPitch = s.tlmGainPitch :=
  fillTx_tlmGainPitch _ _
@[simp] theorem encodeShadow_tlmMode (s : State) : (encodeShadow s).tlmMode = s.tlmMode := fillTx_tlmMode _ _
@[simp] theorem encodeShadow_tlmColor (s : State) : (encodeShadow s).tlmColor = s.tlmColor := fillTx_tlmColor _ _
@[simp] theorem encodeShadow_tlmSpeed (s : State) : (encodeShadow s).tlmSpeed = s.tlmSpeed := fillTx_tlmSpeed _ _
@[simp] theorem encodeShadow_cmdPitch (s : State) : (encodeShadow s).cmdPitch = s.cmdPitch := fillTx_cmdPitch _ _
@[simp] theorem encodeShadow_cmdYaw (s : State) : (encodeShadow s).cmdYaw = s.cmdYaw := fillTx_cmdYaw _ _
@[simp] theorem encodeShadow_cmdDistance (s : State) : (encodeShadow s).cmdDistance = s.cmdDistance :=
  fillTx_cmdDistance _ _
@[simp] theorem encodeShadow_ready (s : State) : (encodeShadow s).ready = s.ready := fillTx_ready _ _
@[simp] theorem encodeShadow_cdone (s : State) : (encodeShadow s).cdone = s.cdone := fillTx_cdone _ _
@[simp] theorem encodeShadow_txLen (s : State) : (encodeShadow s).txLen = 14#8 := fillTx_txLen _ _
@[simp] theorem encodeShadow_shadowPitch (s : State) : (encodeShadow s).shadowPitch = s.shadowPitch :=
  fillTx_shadowPitch _ _
@[simp] theorem encodeShadow_shadowYaw (s : State) : (encodeShadow s).shadowYaw = s.shadowYaw := fillTx_shadowYaw _ _
@[simp] theorem encodeShadow_shadowDistance (s : State) : (encodeShadow s).shadowDistance = s.shadowDistance :=
  fillTx_shadowDistance _ _
@[simp] theorem encodeShadow_mem (s : State) :
    (encodeShadow s).mem = memStoreList s.mem 0x200 (encodeCommand s.shadowPitch s.shadowYaw s.shadowDistance) :=
  fillTx_mem _ _
@[simp] theorem encodeShadow_resets (s : State) : (encodeShadow s).resets = s.resets := fillTx_resets _ _
@[simp] theorem encodeShadow_host (s : State) : (encodeShadow s).host = s.host := fillTx_host _ _
@[simp] theorem encodeShadow_port (s : State) : (encodeShadow s).port = s.port := fillTx_port _ _
@[simp] theorem encodeShadow_sched (s : State) : (encodeShadow s).sched = s.sched := fillTx_sched _ _

/-! ### takeBytes -/

@[simp] theorem takeBytes_cmd (bs : List Byte) (s : State) : (takeBytes bs s).cmd = s.cmd := rfl
@[simp] theorem takeBytes_busy (bs : List Byte) (s : State) : (takeBytes bs s).busy = s.busy := rfl
@[simp] theorem takeBytes_done (bs : List Byte) (s : State) : (takeBytes bs s).done = s.done := rfl
@[simp] theorem takeBytes_frameValid (bs : List Byte) (s : State) : (takeBytes bs s).frameValid = s.frameValid := rfl
@[simp] theorem takeBytes_wrIgn (bs : List Byte) (s : State) : (takeBytes bs s).wrIgn = s.wrIgn := rfl
@[simp] theorem takeBytes_result (bs : List Byte) (s : State) : (takeBytes bs s).result = s.result := rfl
@[simp] theorem takeBytes_seq (bs : List Byte) (s : State) : (takeBytes bs s).seq = s.seq := rfl
@[simp] theorem takeBytes_argOffset (bs : List Byte) (s : State) : (takeBytes bs s).argOffset = s.argOffset := rfl
@[simp] theorem takeBytes_argLength (bs : List Byte) (s : State) : (takeBytes bs s).argLength = s.argLength := rfl
@[simp] theorem takeBytes_rxLen (bs : List Byte) (s : State) :
    (takeBytes bs s).rxLen = BitVec.ofNat 8 bs.length := rfl
@[simp] theorem takeBytes_crcResult (bs : List Byte) (s : State) : (takeBytes bs s).crcResult = s.crcResult := rfl
@[simp] theorem takeBytes_frameOffset (bs : List Byte) (s : State) :
    (takeBytes bs s).frameOffset = s.frameOffset := rfl
@[simp] theorem takeBytes_tlmGainYaw (bs : List Byte) (s : State) : (takeBytes bs s).tlmGainYaw = s.tlmGainYaw := rfl
@[simp] theorem takeBytes_tlmGainPitch (bs : List Byte) (s : State) :
    (takeBytes bs s).tlmGainPitch = s.tlmGainPitch := rfl
@[simp] theorem takeBytes_tlmMode (bs : List Byte) (s : State) : (takeBytes bs s).tlmMode = s.tlmMode := rfl
@[simp] theorem takeBytes_tlmColor (bs : List Byte) (s : State) : (takeBytes bs s).tlmColor = s.tlmColor := rfl
@[simp] theorem takeBytes_tlmSpeed (bs : List Byte) (s : State) : (takeBytes bs s).tlmSpeed = s.tlmSpeed := rfl
@[simp] theorem takeBytes_cmdPitch (bs : List Byte) (s : State) : (takeBytes bs s).cmdPitch = s.cmdPitch := rfl
@[simp] theorem takeBytes_cmdYaw (bs : List Byte) (s : State) : (takeBytes bs s).cmdYaw = s.cmdYaw := rfl
@[simp] theorem takeBytes_cmdDistance (bs : List Byte) (s : State) :
    (takeBytes bs s).cmdDistance = s.cmdDistance := rfl
@[simp] theorem takeBytes_ready (bs : List Byte) (s : State) : (takeBytes bs s).ready = s.ready := rfl
@[simp] theorem takeBytes_cdone (bs : List Byte) (s : State) : (takeBytes bs s).cdone = s.cdone := rfl
@[simp] theorem takeBytes_txLen (bs : List Byte) (s : State) : (takeBytes bs s).txLen = s.txLen := rfl
@[simp] theorem takeBytes_shadowPitch (bs : List Byte) (s : State) :
    (takeBytes bs s).shadowPitch = s.shadowPitch := rfl
@[simp] theorem takeBytes_shadowYaw (bs : List Byte) (s : State) : (takeBytes bs s).shadowYaw = s.shadowYaw := rfl
@[simp] theorem takeBytes_shadowDistance (bs : List Byte) (s : State) :
    (takeBytes bs s).shadowDistance = s.shadowDistance := rfl
@[simp] theorem takeBytes_mem (bs : List Byte) (s : State) : (takeBytes bs s).mem = memStoreList s.mem 0x100 bs := rfl
@[simp] theorem takeBytes_resets (bs : List Byte) (s : State) : (takeBytes bs s).resets = s.resets := rfl
@[simp] theorem takeBytes_host (bs : List Byte) (s : State) : (takeBytes bs s).host = s.host := rfl
@[simp] theorem takeBytes_port (bs : List Byte) (s : State) : (takeBytes bs s).port = s.port := rfl
@[simp] theorem takeBytes_sched (bs : List Byte) (s : State) : (takeBytes bs s).sched = s.sched := rfl

/-! ### afterRead -/

@[simp] theorem afterRead_cmd (s : State) : (afterRead s).cmd = s.cmd := rfl
@[simp] theorem afterRead_busy (s : State) : (afterRead s).busy = s.busy := rfl
@[simp] theorem afterRead_done (s : State) : (afterRead s).done = s.done := rfl
@[simp] theorem afterRead_frameValid (s : State) : (afterRead s).frameValid = s.frameValid := rfl
@[simp] theorem afterRead_wrIgn (s : State) : (afterRead s).wrIgn = s.wrIgn := rfl
@[simp] theorem afterRead_result (s : State) : (afterRead s).result = s.result := rfl
@[simp] theorem afterRead_seq (s : State) : (afterRead s).seq = s.seq := rfl
@[simp] theorem afterRead_argOffset (s : State) : (afterRead s).argOffset = s.argOffset := rfl
@[simp] theorem afterRead_argLength (s : State) : (afterRead s).argLength = s.argLength := rfl
@[simp] theorem afterRead_rxLen (s : State) : (afterRead s).rxLen = s.rxLen := rfl
@[simp] theorem afterRead_crcResult (s : State) : (afterRead s).crcResult = s.crcResult := rfl
@[simp] theorem afterRead_frameOffset (s : State) : (afterRead s).frameOffset = s.frameOffset := rfl
@[simp] theorem afterRead_tlmGainYaw (s : State) : (afterRead s).tlmGainYaw = s.tlmGainYaw := rfl
@[simp] theorem afterRead_tlmGainPitch (s : State) : (afterRead s).tlmGainPitch = s.tlmGainPitch := rfl
@[simp] theorem afterRead_tlmMode (s : State) : (afterRead s).tlmMode = s.tlmMode := rfl
@[simp] theorem afterRead_tlmColor (s : State) : (afterRead s).tlmColor = s.tlmColor := rfl
@[simp] theorem afterRead_tlmSpeed (s : State) : (afterRead s).tlmSpeed = s.tlmSpeed := rfl
@[simp] theorem afterRead_cmdPitch (s : State) : (afterRead s).cmdPitch = s.cmdPitch := rfl
@[simp] theorem afterRead_cmdYaw (s : State) : (afterRead s).cmdYaw = s.cmdYaw := rfl
@[simp] theorem afterRead_cmdDistance (s : State) : (afterRead s).cmdDistance = s.cmdDistance := rfl
@[simp] theorem afterRead_ready (s : State) : (afterRead s).ready = s.ready := rfl
@[simp] theorem afterRead_cdone (s : State) : (afterRead s).cdone = s.cdone := rfl
@[simp] theorem afterRead_txLen (s : State) : (afterRead s).txLen = s.txLen := rfl
@[simp] theorem afterRead_shadowPitch (s : State) : (afterRead s).shadowPitch = s.shadowPitch := rfl
@[simp] theorem afterRead_shadowYaw (s : State) : (afterRead s).shadowYaw = s.shadowYaw := rfl
@[simp] theorem afterRead_shadowDistance (s : State) : (afterRead s).shadowDistance = s.shadowDistance := rfl
@[simp] theorem afterRead_mem (s : State) : (afterRead s).mem = s.mem := rfl
@[simp] theorem afterRead_resets (s : State) : (afterRead s).resets = s.resets := rfl
@[simp] theorem afterRead_host (s : State) : (afterRead s).host = s.host := rfl
@[simp] theorem afterRead_port (s : State) :
    (afterRead s).port = { s.port with reads := s.port.reads.tail, readCount := s.port.readCount + 1, log := s.port.log ++ [.read Config.rxCap (readAnswer s)] } :=
  rfl
@[simp] theorem afterRead_sched (s : State) : (afterRead s).sched = s.sched := rfl

/-! ### afterWrite -/

@[simp] theorem afterWrite_cmd (bs : List Byte) (s : State) : (afterWrite bs s).cmd = s.cmd := rfl
@[simp] theorem afterWrite_busy (bs : List Byte) (s : State) : (afterWrite bs s).busy = s.busy := rfl
@[simp] theorem afterWrite_done (bs : List Byte) (s : State) : (afterWrite bs s).done = s.done := rfl
@[simp] theorem afterWrite_frameValid (bs : List Byte) (s : State) :
    (afterWrite bs s).frameValid = s.frameValid := rfl
@[simp] theorem afterWrite_wrIgn (bs : List Byte) (s : State) : (afterWrite bs s).wrIgn = s.wrIgn := rfl
@[simp] theorem afterWrite_result (bs : List Byte) (s : State) : (afterWrite bs s).result = s.result := rfl
@[simp] theorem afterWrite_seq (bs : List Byte) (s : State) : (afterWrite bs s).seq = s.seq := rfl
@[simp] theorem afterWrite_argOffset (bs : List Byte) (s : State) : (afterWrite bs s).argOffset = s.argOffset := rfl
@[simp] theorem afterWrite_argLength (bs : List Byte) (s : State) : (afterWrite bs s).argLength = s.argLength := rfl
@[simp] theorem afterWrite_rxLen (bs : List Byte) (s : State) : (afterWrite bs s).rxLen = s.rxLen := rfl
@[simp] theorem afterWrite_crcResult (bs : List Byte) (s : State) : (afterWrite bs s).crcResult = s.crcResult := rfl
@[simp] theorem afterWrite_frameOffset (bs : List Byte) (s : State) :
    (afterWrite bs s).frameOffset = s.frameOffset := rfl
@[simp] theorem afterWrite_tlmGainYaw (bs : List Byte) (s : State) :
    (afterWrite bs s).tlmGainYaw = s.tlmGainYaw := rfl
@[simp] theorem afterWrite_tlmGainPitch (bs : List Byte) (s : State) :
    (afterWrite bs s).tlmGainPitch = s.tlmGainPitch := rfl
@[simp] theorem afterWrite_tlmMode (bs : List Byte) (s : State) : (afterWrite bs s).tlmMode = s.tlmMode := rfl
@[simp] theorem afterWrite_tlmColor (bs : List Byte) (s : State) : (afterWrite bs s).tlmColor = s.tlmColor := rfl
@[simp] theorem afterWrite_tlmSpeed (bs : List Byte) (s : State) : (afterWrite bs s).tlmSpeed = s.tlmSpeed := rfl
@[simp] theorem afterWrite_cmdPitch (bs : List Byte) (s : State) : (afterWrite bs s).cmdPitch = s.cmdPitch := rfl
@[simp] theorem afterWrite_cmdYaw (bs : List Byte) (s : State) : (afterWrite bs s).cmdYaw = s.cmdYaw := rfl
@[simp] theorem afterWrite_cmdDistance (bs : List Byte) (s : State) :
    (afterWrite bs s).cmdDistance = s.cmdDistance := rfl
@[simp] theorem afterWrite_ready (bs : List Byte) (s : State) : (afterWrite bs s).ready = s.ready := rfl
@[simp] theorem afterWrite_cdone (bs : List Byte) (s : State) : (afterWrite bs s).cdone = s.cdone := rfl
@[simp] theorem afterWrite_txLen (bs : List Byte) (s : State) : (afterWrite bs s).txLen = s.txLen := rfl
@[simp] theorem afterWrite_shadowPitch (bs : List Byte) (s : State) :
    (afterWrite bs s).shadowPitch = s.shadowPitch := rfl
@[simp] theorem afterWrite_shadowYaw (bs : List Byte) (s : State) : (afterWrite bs s).shadowYaw = s.shadowYaw := rfl
@[simp] theorem afterWrite_shadowDistance (bs : List Byte) (s : State) :
    (afterWrite bs s).shadowDistance = s.shadowDistance := rfl
@[simp] theorem afterWrite_mem (bs : List Byte) (s : State) : (afterWrite bs s).mem = s.mem := rfl
@[simp] theorem afterWrite_resets (bs : List Byte) (s : State) : (afterWrite bs s).resets = s.resets := rfl
@[simp] theorem afterWrite_host (bs : List Byte) (s : State) : (afterWrite bs s).host = s.host := rfl
@[simp] theorem afterWrite_port (bs : List Byte) (s : State) :
    (afterWrite bs s).port = { s.port with writes := s.port.writes.tail, writeCount := s.port.writeCount + 1, log := s.port.log ++ [.write bs (writeAnswer s)] } :=
  rfl
@[simp] theorem afterWrite_sched (bs : List Byte) (s : State) : (afterWrite bs s).sched = s.sched := rfl

/-! ### hostNext -/

@[simp] theorem hostNext_cmd (s : State) : (hostNext s).cmd = s.cmd := rfl
@[simp] theorem hostNext_busy (s : State) : (hostNext s).busy = s.busy := rfl
@[simp] theorem hostNext_done (s : State) : (hostNext s).done = s.done := rfl
@[simp] theorem hostNext_frameValid (s : State) : (hostNext s).frameValid = s.frameValid := rfl
@[simp] theorem hostNext_wrIgn (s : State) : (hostNext s).wrIgn = s.wrIgn := rfl
@[simp] theorem hostNext_result (s : State) : (hostNext s).result = s.result := rfl
@[simp] theorem hostNext_seq (s : State) : (hostNext s).seq = s.seq := rfl
@[simp] theorem hostNext_argOffset (s : State) : (hostNext s).argOffset = s.argOffset := rfl
@[simp] theorem hostNext_argLength (s : State) : (hostNext s).argLength = s.argLength := rfl
@[simp] theorem hostNext_rxLen (s : State) : (hostNext s).rxLen = s.rxLen := rfl
@[simp] theorem hostNext_crcResult (s : State) : (hostNext s).crcResult = s.crcResult := rfl
@[simp] theorem hostNext_frameOffset (s : State) : (hostNext s).frameOffset = s.frameOffset := rfl
@[simp] theorem hostNext_tlmGainYaw (s : State) : (hostNext s).tlmGainYaw = s.tlmGainYaw := rfl
@[simp] theorem hostNext_tlmGainPitch (s : State) : (hostNext s).tlmGainPitch = s.tlmGainPitch := rfl
@[simp] theorem hostNext_tlmMode (s : State) : (hostNext s).tlmMode = s.tlmMode := rfl
@[simp] theorem hostNext_tlmColor (s : State) : (hostNext s).tlmColor = s.tlmColor := rfl
@[simp] theorem hostNext_tlmSpeed (s : State) : (hostNext s).tlmSpeed = s.tlmSpeed := rfl
@[simp] theorem hostNext_cmdPitch (s : State) : (hostNext s).cmdPitch = s.cmdPitch := rfl
@[simp] theorem hostNext_cmdYaw (s : State) : (hostNext s).cmdYaw = s.cmdYaw := rfl
@[simp] theorem hostNext_cmdDistance (s : State) : (hostNext s).cmdDistance = s.cmdDistance := rfl
@[simp] theorem hostNext_ready (s : State) : (hostNext s).ready = s.ready := rfl
@[simp] theorem hostNext_cdone (s : State) : (hostNext s).cdone = s.cdone := rfl
@[simp] theorem hostNext_txLen (s : State) : (hostNext s).txLen = s.txLen := rfl
@[simp] theorem hostNext_shadowPitch (s : State) : (hostNext s).shadowPitch = s.shadowPitch := rfl
@[simp] theorem hostNext_shadowYaw (s : State) : (hostNext s).shadowYaw = s.shadowYaw := rfl
@[simp] theorem hostNext_shadowDistance (s : State) : (hostNext s).shadowDistance = s.shadowDistance := rfl
@[simp] theorem hostNext_mem (s : State) : (hostNext s).mem = s.mem := rfl
@[simp] theorem hostNext_resets (s : State) : (hostNext s).resets = s.resets := rfl
@[simp] theorem hostNext_host (s : State) : (hostNext s).host = { s.host with pc := s.host.pc + 1 } := rfl
@[simp] theorem hostNext_port (s : State) : (hostNext s).port = s.port := rfl
@[simp] theorem hostNext_sched (s : State) : (hostNext s).sched = s.sched := rfl

/-! ### setT -/

@[simp] theorem setT_cmd (v : Word) (s : State) : (setT v s).cmd = s.cmd := rfl
@[simp] theorem setT_busy (v : Word) (s : State) : (setT v s).busy = s.busy := rfl
@[simp] theorem setT_done (v : Word) (s : State) : (setT v s).done = s.done := rfl
@[simp] theorem setT_frameValid (v : Word) (s : State) : (setT v s).frameValid = s.frameValid := rfl
@[simp] theorem setT_wrIgn (v : Word) (s : State) : (setT v s).wrIgn = s.wrIgn := rfl
@[simp] theorem setT_result (v : Word) (s : State) : (setT v s).result = s.result := rfl
@[simp] theorem setT_seq (v : Word) (s : State) : (setT v s).seq = s.seq := rfl
@[simp] theorem setT_argOffset (v : Word) (s : State) : (setT v s).argOffset = s.argOffset := rfl
@[simp] theorem setT_argLength (v : Word) (s : State) : (setT v s).argLength = s.argLength := rfl
@[simp] theorem setT_rxLen (v : Word) (s : State) : (setT v s).rxLen = s.rxLen := rfl
@[simp] theorem setT_crcResult (v : Word) (s : State) : (setT v s).crcResult = s.crcResult := rfl
@[simp] theorem setT_frameOffset (v : Word) (s : State) : (setT v s).frameOffset = s.frameOffset := rfl
@[simp] theorem setT_tlmGainYaw (v : Word) (s : State) : (setT v s).tlmGainYaw = s.tlmGainYaw := rfl
@[simp] theorem setT_tlmGainPitch (v : Word) (s : State) : (setT v s).tlmGainPitch = s.tlmGainPitch := rfl
@[simp] theorem setT_tlmMode (v : Word) (s : State) : (setT v s).tlmMode = s.tlmMode := rfl
@[simp] theorem setT_tlmColor (v : Word) (s : State) : (setT v s).tlmColor = s.tlmColor := rfl
@[simp] theorem setT_tlmSpeed (v : Word) (s : State) : (setT v s).tlmSpeed = s.tlmSpeed := rfl
@[simp] theorem setT_cmdPitch (v : Word) (s : State) : (setT v s).cmdPitch = s.cmdPitch := rfl
@[simp] theorem setT_cmdYaw (v : Word) (s : State) : (setT v s).cmdYaw = s.cmdYaw := rfl
@[simp] theorem setT_cmdDistance (v : Word) (s : State) : (setT v s).cmdDistance = s.cmdDistance := rfl
@[simp] theorem setT_ready (v : Word) (s : State) : (setT v s).ready = s.ready := rfl
@[simp] theorem setT_cdone (v : Word) (s : State) : (setT v s).cdone = s.cdone := rfl
@[simp] theorem setT_txLen (v : Word) (s : State) : (setT v s).txLen = s.txLen := rfl
@[simp] theorem setT_shadowPitch (v : Word) (s : State) : (setT v s).shadowPitch = s.shadowPitch := rfl
@[simp] theorem setT_shadowYaw (v : Word) (s : State) : (setT v s).shadowYaw = s.shadowYaw := rfl
@[simp] theorem setT_shadowDistance (v : Word) (s : State) : (setT v s).shadowDistance = s.shadowDistance := rfl
@[simp] theorem setT_mem (v : Word) (s : State) : (setT v s).mem = s.mem := rfl
@[simp] theorem setT_resets (v : Word) (s : State) : (setT v s).resets = s.resets := rfl
@[simp] theorem setT_host (v : Word) (s : State) : (setT v s).host = { s.host with t := v } := rfl
@[simp] theorem setT_port (v : Word) (s : State) : (setT v s).port = s.port := rfl
@[simp] theorem setT_sched (v : Word) (s : State) : (setT v s).sched = s.sched := rfl

/-! ### scanCommit: what a commit does not write -/

@[simp] theorem scanCommit_cmd (s : State) : (scanCommit s).cmd = s.cmd := by
  unfold scanCommit; split <;> rfl
@[simp] theorem scanCommit_busy (s : State) : (scanCommit s).busy = s.busy := by
  unfold scanCommit; split <;> rfl
@[simp] theorem scanCommit_done (s : State) : (scanCommit s).done = s.done := by
  unfold scanCommit; split <;> rfl
@[simp] theorem scanCommit_wrIgn (s : State) : (scanCommit s).wrIgn = s.wrIgn := by
  unfold scanCommit; split <;> rfl
@[simp] theorem scanCommit_result (s : State) : (scanCommit s).result = s.result := by
  unfold scanCommit; split <;> rfl
@[simp] theorem scanCommit_seq (s : State) : (scanCommit s).seq = s.seq := by
  unfold scanCommit; split <;> rfl
@[simp] theorem scanCommit_argOffset (s : State) : (scanCommit s).argOffset = s.argOffset := by
  unfold scanCommit; split <;> rfl
@[simp] theorem scanCommit_argLength (s : State) : (scanCommit s).argLength = s.argLength := by
  unfold scanCommit; split <;> rfl
@[simp] theorem scanCommit_rxLen (s : State) : (scanCommit s).rxLen = s.rxLen := by
  unfold scanCommit; split <;> rfl
@[simp] theorem scanCommit_crcResult (s : State) : (scanCommit s).crcResult = s.crcResult := by
  unfold scanCommit; split <;> rfl
@[simp] theorem scanCommit_cmdPitch (s : State) : (scanCommit s).cmdPitch = s.cmdPitch := by
  unfold scanCommit; split <;> rfl
@[simp] theorem scanCommit_cmdYaw (s : State) : (scanCommit s).cmdYaw = s.cmdYaw := by
  unfold scanCommit; split <;> rfl
@[simp] theorem scanCommit_cmdDistance (s : State) : (scanCommit s).cmdDistance = s.cmdDistance := by
  unfold scanCommit; split <;> rfl
@[simp] theorem scanCommit_ready (s : State) : (scanCommit s).ready = s.ready := by
  unfold scanCommit; split <;> rfl
@[simp] theorem scanCommit_cdone (s : State) : (scanCommit s).cdone = s.cdone := by
  unfold scanCommit; split <;> rfl
@[simp] theorem scanCommit_txLen (s : State) : (scanCommit s).txLen = s.txLen := by
  unfold scanCommit; split <;> rfl
@[simp] theorem scanCommit_shadowPitch (s : State) : (scanCommit s).shadowPitch = s.shadowPitch := by
  unfold scanCommit; split <;> rfl
@[simp] theorem scanCommit_shadowYaw (s : State) : (scanCommit s).shadowYaw = s.shadowYaw := by
  unfold scanCommit; split <;> rfl
@[simp] theorem scanCommit_shadowDistance (s : State) : (scanCommit s).shadowDistance = s.shadowDistance := by
  unfold scanCommit; split <;> rfl
@[simp] theorem scanCommit_mem (s : State) : (scanCommit s).mem = s.mem := by
  unfold scanCommit; split <;> rfl
@[simp] theorem scanCommit_resets (s : State) : (scanCommit s).resets = s.resets := by
  unfold scanCommit; split <;> rfl
@[simp] theorem scanCommit_host (s : State) : (scanCommit s).host = s.host := by
  unfold scanCommit; split <;> rfl
@[simp] theorem scanCommit_port (s : State) : (scanCommit s).port = s.port := by
  unfold scanCommit; split <;> rfl
@[simp] theorem scanCommit_sched (s : State) : (scanCommit s).sched = s.sched := by
  unfold scanCommit; split <;> rfl

/-! ### cycleScan -/

@[simp] theorem cycleScan_cmd (s : State) : (cycleScan s).cmd = s.cmd := scanCommit_cmd s
@[simp] theorem cycleScan_busy (s : State) : (cycleScan s).busy = s.busy := scanCommit_busy s
@[simp] theorem cycleScan_done (s : State) : (cycleScan s).done = s.done := scanCommit_done s
@[simp] theorem cycleScan_frameValid (s : State) : (cycleScan s).frameValid = (scanCommit s).frameValid := rfl
@[simp] theorem cycleScan_wrIgn (s : State) : (cycleScan s).wrIgn = s.wrIgn := scanCommit_wrIgn s
@[simp] theorem cycleScan_result (s : State) : (cycleScan s).result = s.result := scanCommit_result s
@[simp] theorem cycleScan_seq (s : State) : (cycleScan s).seq = .encode := rfl
@[simp] theorem cycleScan_argOffset (s : State) : (cycleScan s).argOffset = s.argOffset := scanCommit_argOffset s
@[simp] theorem cycleScan_argLength (s : State) : (cycleScan s).argLength = s.argLength := scanCommit_argLength s
@[simp] theorem cycleScan_rxLen (s : State) : (cycleScan s).rxLen = s.rxLen := scanCommit_rxLen s
@[simp] theorem cycleScan_crcResult (s : State) : (cycleScan s).crcResult = s.crcResult := scanCommit_crcResult s
@[simp] theorem cycleScan_frameOffset (s : State) : (cycleScan s).frameOffset = (scanCommit s).frameOffset := rfl
@[simp] theorem cycleScan_tlmGainYaw (s : State) : (cycleScan s).tlmGainYaw = (scanCommit s).tlmGainYaw := rfl
@[simp] theorem cycleScan_tlmGainPitch (s : State) : (cycleScan s).tlmGainPitch = (scanCommit s).tlmGainPitch := rfl
@[simp] theorem cycleScan_tlmMode (s : State) : (cycleScan s).tlmMode = (scanCommit s).tlmMode := rfl
@[simp] theorem cycleScan_tlmColor (s : State) : (cycleScan s).tlmColor = (scanCommit s).tlmColor := rfl
@[simp] theorem cycleScan_tlmSpeed (s : State) : (cycleScan s).tlmSpeed = (scanCommit s).tlmSpeed := rfl
@[simp] theorem cycleScan_cmdPitch (s : State) : (cycleScan s).cmdPitch = s.cmdPitch := scanCommit_cmdPitch s
@[simp] theorem cycleScan_cmdYaw (s : State) : (cycleScan s).cmdYaw = s.cmdYaw := scanCommit_cmdYaw s
@[simp] theorem cycleScan_cmdDistance (s : State) : (cycleScan s).cmdDistance = s.cmdDistance :=
  scanCommit_cmdDistance s
@[simp] theorem cycleScan_ready (s : State) : (cycleScan s).ready = s.ready := scanCommit_ready s
@[simp] theorem cycleScan_cdone (s : State) : (cycleScan s).cdone = true := rfl
@[simp] theorem cycleScan_txLen (s : State) : (cycleScan s).txLen = s.txLen := scanCommit_txLen s
@[simp] theorem cycleScan_shadowPitch (s : State) : (cycleScan s).shadowPitch = s.shadowPitch :=
  scanCommit_shadowPitch s
@[simp] theorem cycleScan_shadowYaw (s : State) : (cycleScan s).shadowYaw = s.shadowYaw := scanCommit_shadowYaw s
@[simp] theorem cycleScan_shadowDistance (s : State) : (cycleScan s).shadowDistance = s.shadowDistance :=
  scanCommit_shadowDistance s
@[simp] theorem cycleScan_mem (s : State) : (cycleScan s).mem = s.mem := scanCommit_mem s
@[simp] theorem cycleScan_resets (s : State) : (cycleScan s).resets = s.resets := scanCommit_resets s
@[simp] theorem cycleScan_host (s : State) : (cycleScan s).host = s.host := scanCommit_host s
@[simp] theorem cycleScan_port (s : State) : (cycleScan s).port = s.port := scanCommit_port s
@[simp] theorem cycleScan_sched (s : State) : (cycleScan s).sched = s.sched := scanCommit_sched s

/-! ### cycleEncode -/

@[simp] theorem cycleEncode_cmd (s : State) : (cycleEncode s).cmd = s.cmd := encodeShadow_cmd s
@[simp] theorem cycleEncode_busy (s : State) : (cycleEncode s).busy = s.busy := encodeShadow_busy s
@[simp] theorem cycleEncode_done (s : State) : (cycleEncode s).done = s.done := encodeShadow_done s
@[simp] theorem cycleEncode_frameValid (s : State) :
    (cycleEncode s).frameValid = s.frameValid :=
  encodeShadow_frameValid s
@[simp] theorem cycleEncode_wrIgn (s : State) : (cycleEncode s).wrIgn = s.wrIgn := encodeShadow_wrIgn s
@[simp] theorem cycleEncode_result (s : State) : (cycleEncode s).result = s.result := encodeShadow_result s
@[simp] theorem cycleEncode_seq (s : State) : (cycleEncode s).seq = .write := rfl
@[simp] theorem cycleEncode_argOffset (s : State) :
    (cycleEncode s).argOffset = s.argOffset :=
  encodeShadow_argOffset s
@[simp] theorem cycleEncode_argLength (s : State) :
    (cycleEncode s).argLength = s.argLength :=
  encodeShadow_argLength s
@[simp] theorem cycleEncode_rxLen (s : State) : (cycleEncode s).rxLen = s.rxLen := encodeShadow_rxLen s
@[simp] theorem cycleEncode_crcResult (s : State) :
    (cycleEncode s).crcResult = s.crcResult :=
  encodeShadow_crcResult s
@[simp] theorem cycleEncode_frameOffset (s : State) :
    (cycleEncode s).frameOffset = s.frameOffset :=
  encodeShadow_frameOffset s
@[simp] theorem cycleEncode_tlmGainYaw (s : State) :
    (cycleEncode s).tlmGainYaw = s.tlmGainYaw :=
  encodeShadow_tlmGainYaw s
@[simp] theorem cycleEncode_tlmGainPitch (s : State) :
    (cycleEncode s).tlmGainPitch = s.tlmGainPitch :=
  encodeShadow_tlmGainPitch s
@[simp] theorem cycleEncode_tlmMode (s : State) : (cycleEncode s).tlmMode = s.tlmMode := encodeShadow_tlmMode s
@[simp] theorem cycleEncode_tlmColor (s : State) : (cycleEncode s).tlmColor = s.tlmColor := encodeShadow_tlmColor s
@[simp] theorem cycleEncode_tlmSpeed (s : State) : (cycleEncode s).tlmSpeed = s.tlmSpeed := encodeShadow_tlmSpeed s
@[simp] theorem cycleEncode_cmdPitch (s : State) : (cycleEncode s).cmdPitch = s.cmdPitch := encodeShadow_cmdPitch s
@[simp] theorem cycleEncode_cmdYaw (s : State) : (cycleEncode s).cmdYaw = s.cmdYaw := encodeShadow_cmdYaw s
@[simp] theorem cycleEncode_cmdDistance (s : State) :
    (cycleEncode s).cmdDistance = s.cmdDistance :=
  encodeShadow_cmdDistance s
@[simp] theorem cycleEncode_ready (s : State) : (cycleEncode s).ready = s.ready := encodeShadow_ready s
@[simp] theorem cycleEncode_cdone (s : State) : (cycleEncode s).cdone = s.cdone := encodeShadow_cdone s
@[simp] theorem cycleEncode_txLen (s : State) : (cycleEncode s).txLen = 14#8 := encodeShadow_txLen s
@[simp] theorem cycleEncode_shadowPitch (s : State) :
    (cycleEncode s).shadowPitch = s.shadowPitch :=
  encodeShadow_shadowPitch s
@[simp] theorem cycleEncode_shadowYaw (s : State) :
    (cycleEncode s).shadowYaw = s.shadowYaw :=
  encodeShadow_shadowYaw s
@[simp] theorem cycleEncode_shadowDistance (s : State) :
    (cycleEncode s).shadowDistance = s.shadowDistance :=
  encodeShadow_shadowDistance s
@[simp] theorem cycleEncode_mem (s : State) :
    (cycleEncode s).mem = memStoreList s.mem 0x200 (encodeCommand s.shadowPitch s.shadowYaw s.shadowDistance) :=
  encodeShadow_mem s
@[simp] theorem cycleEncode_resets (s : State) : (cycleEncode s).resets = s.resets := encodeShadow_resets s
@[simp] theorem cycleEncode_host (s : State) : (cycleEncode s).host = s.host := encodeShadow_host s
@[simp] theorem cycleEncode_port (s : State) : (cycleEncode s).port = s.port := encodeShadow_port s
@[simp] theorem cycleEncode_sched (s : State) : (cycleEncode s).sched = s.sched := encodeShadow_sched s

end Sys2Proof.Machine
end

