-- ==== Sys2Proof/Laws/Steps.lean ====
section
/-! SUPPORT. What a host write, a host step, an engine step and a step of the machine can do, each said once as a relation with one
constructor per case: "if it answers next t, then one of these cases holds". Later proofs take these apart instead of
unfolding the step functions. -/

namespace Sys2Proof.Machine

/-- Everything an admitted host write of `v`, `n` bytes wide, at offset `a` can do (R64-R66). -/
inductive WriteEffect (a n : Nat) (v : Word) (s : State) : State → Prop where
  | ignored : WriteEffect a n v s s
  | busyLocked (hb : s.busy = true) : WriteEffect a n v s (ignoreWrite s)
  | accepted (hb : s.busy = false) (ha : a = offCmd) (hn : n = 4) : WriteEffect a n v s (acceptCommand v s)
  | status (ha : a = offStatus) (hn : n = 4) : WriteEffect a n v s (writeStatus v s)
  | arg (hb : s.busy = false) (o l : Byte) : WriteEffect a n v s { s with argOffset := o, argLength := l }
  | rxLen (hb : s.busy = false) (l : Byte) : WriteEffect a n v s { s with rxLen := l }
  | command (p y d : Word) : WriteEffect a n v s { s with cmdPitch := p, cmdYaw := y, cmdDistance := d }
  | handoff (ha : a = offHandoff) (hn : n = 4) : WriteEffect a n v s (writeHandoff v s)
  | rxBytes (hb : s.busy = false) (m : List Host.Cell) (hw : memWf s.mem = true → memWf m = true)
      (hm : ∀ x, isRx x = false → memLookup m x = memLookup s.mem x) : WriteEffect a n v s { s with mem := m }

/-- A host write to a register (R64). -/
theorem writeRegister_effect (a : Nat) (v : Word) (s : State) : WriteEffect a 4 v s (writeRegister a v s) := by
  unfold writeRegister
  by_cases hl : (busyLocked a && s.busy) = true
  · rw [if_pos hl]
    exact .busyLocked ((Bool.and_eq_true _ _ ▸ hl).2)
  have hfree : busyLocked a = true → s.busy = false := by
    intro h; cases hs : s.busy
    · rfl
    · exact absurd (by rw [h, hs]; rfl) hl
  rw [if_neg hl]
  split
  · next h => exact .accepted (hfree (by rw [h]; rfl)) h rfl
  split
  · next h => exact .status h rfl
  split
  · next h => exact .arg (hfree (by rw [h]; rfl)) _ _
  split
  · next h => exact .rxLen (hfree (by rw [h]; rfl)) _
  split
  · exact .command v s.cmdYaw s.cmdDistance
  split
  · exact .command s.cmdPitch v s.cmdDistance
  split
  · exact .command s.cmdPitch s.cmdYaw v
  split
  · next h => exact .handoff h rfl
  · exact .ignored

/-- A host write to the byte region (R65, R66). -/
theorem writeWindow_effect (a n : Nat) (v : Word) (s : State) : WriteEffect a n v s (writeWindow a n v s) := by
  unfold writeWindow
  split
  · split
    · next h => exact .busyLocked h
    · next h =>
      obtain ⟨h1, h2, h3⟩ := storeRx_spec a (writeBytes n v) s
      rw [h1]
      exact .rxBytes (by simpa using h) _ h3 fun x hx => by rw [h2, if_neg (by rw [hx]; simp)]
  · exact .ignored

/-- An admitted host write (R64-R66). -/
theorem memWrite_effect {s t : State} {a n : Nat} {v : Word} (h : memWrite s a n v = some t) :
    WriteEffect a n v s t := by
  unfold memWrite at h
  split at h
  · next hadm =>
    split at h
    · next hlt =>
      obtain rfl := Option.some.inj h
      unfold admitted at hadm
      rw [if_pos hlt, Bool.and_eq_true, beq_iff_eq] at hadm
      rw [hadm.1]
      exact writeRegister_effect a v s
    · obtain rfl := Option.some.inj h
      exact writeWindow_effect a n v s
  · cases h

/-- Everything a host step can do (R90): the host's own state changes and nothing else, or one admitted write happens. -/
inductive HostEffect (s : State) : State → Prop where
  | own (hs : HostAgent) : HostEffect s { s with host := hs }
  | write (a n : Nat) (v : Word) (s' : State) (hw : WriteEffect a n v s s')
      (hst : (n = 4 ∧ s.host.prog[s.host.pc]? = some (.wr32 a v)) ∨
        (n = 1 ∧ s.host.prog[s.host.pc]? = some (.wr8 a v))) : HostEffect s (hostNext s')

theorem hostRead_effect {a n : Nat} {s t : State} (h : hostRead a n s = .next t) : HostEffect s t := by
  unfold hostRead at h
  split at h
  · cases h; exact .own _
  · cases h

theorem hostWrite_effect {a n : Nat} {v : Word} {s t : State} (h : hostWrite a n v s = .next t)
    (hst : (n = 4 ∧ s.host.prog[s.host.pc]? = some (.wr32 a v)) ∨
      (n = 1 ∧ s.host.prog[s.host.pc]? = some (.wr8 a v))) : HostEffect s t := by
  unfold hostWrite at h
  split at h
  · next s' hs => cases h; exact .write a n v s' (memWrite_effect hs) hst
  · cases h

theorem hostBranch_effect {a : Nat} {m : Word} {f : Word → Bool} {l : Nat} {s t : State}
    (h : hostBranch a m f l s = .next t) : HostEffect s t := by
  unfold hostBranch at h
  split at h
  · split at h
    · unfold hostGoto at h
      split at h
      · cases h; exact .own _
      · cases h
    · cases h; exact .own _
  · cases h

/-- A host step (R90). -/
theorem hostStep_effect {s t : State} (h : hostStep s = .next t) : HostEffect s t := by
  unfold hostStep at h
  split at h
  · next st hst =>
    unfold hostStmt at h
    split at h
    · exact hostWrite_effect h (.inl ⟨rfl, hst⟩)
    · exact hostWrite_effect h (.inr ⟨rfl, hst⟩)
    · exact hostRead_effect h
    · exact hostRead_effect h
    · exact hostBranch_effect h
    · exact hostBranch_effect h
    · cases h; exact .own _
    · cases h; exact .own s.host
  · cases h; exact .own s.host

/-- Everything one engine step of an operation can do, with the sequencer state it is in (R181). -/
inductive ExecEffect (s : State) : Instr → State → Prop where
  | nop (hs : s.seq = .exec) : ExecEffect s .nop (complete .ok s)
  | crc8 (hs : s.seq = .exec) : ExecEffect s .crc8 (crc8Step s)
  | decode (hs : s.seq = .exec) : ExecEffect s .decode (decodeStep s)
  | scan (hs : s.seq = .exec) : ExecEffect s .scan (complete (scanResult s) (scanCommit s))
  | encode (hs : s.seq = .exec) : ExecEffect s .encode (complete .ok (encodeShadow s))
  | rxRead (hs : s.seq = .read) : ExecEffect s .rxRead (rxReadStep s)
  | txWrite (hs : s.seq = .write) : ExecEffect s .txWrite (txWriteStep s)
  | cycleGate (hs : s.seq = .waitReady) : ExecEffect s .cycle (cycleGate s)
  | cycleRead (hs : s.seq = .read) : ExecEffect s .cycle (cycleRead s)
  | cycleScan (hs : s.seq = .scan) : ExecEffect s .cycle (cycleScan s)
  | cycleEncode (hs : s.seq = .encode) : ExecEffect s .cycle (cycleEncode s)
  | cycleWrite (hs : s.seq = .write) : ExecEffect s .cycle (cycleWrite s)

/-- A meaning that runs in one sequencer state only. -/
theorem next_of_ite {c : Prop} [Decidable c] {u t : State} {r : Fault}
    (h : (if c then (.next u : Host.Outcome State Fault Refusal) else .fault r) = .next t) : c ∧ u = t := by
  split at h
  · next hc => cases h; exact ⟨hc, rfl⟩
  · cases h

/-- An engine step of an operation (R181). -/
theorem exec_effect {i : Instr} {s t : State} (h : exec i s = .next t) : ExecEffect s i t := by
  cases i
  case nop =>
    change execNop s = .next t at h
    unfold execNop at h
    obtain ⟨hs, rfl⟩ := next_of_ite h
    exact .nop hs
  case crc8 =>
    change execCrc8 s = .next t at h
    unfold execCrc8 at h
    obtain ⟨hs, rfl⟩ := next_of_ite h
    exact .crc8 hs
  case decode =>
    change execDecode s = .next t at h
    unfold execDecode at h
    obtain ⟨hs, rfl⟩ := next_of_ite h
    exact .decode hs
  case scan =>
    change execScan s = .next t at h
    unfold execScan at h
    obtain ⟨hs, rfl⟩ := next_of_ite h
    exact .scan hs
  case encode =>
    change execEncode s = .next t at h
    unfold execEncode at h
    obtain ⟨hs, rfl⟩ := next_of_ite h
    exact .encode hs
  case rxRead =>
    change execRxRead s = .next t at h
    unfold execRxRead at h
    obtain ⟨hs, rfl⟩ := next_of_ite h
    exact .rxRead hs
  case txWrite =>
    change execTxWrite s = .next t at h
    unfold execTxWrite at h
    obtain ⟨hs, rfl⟩ := next_of_ite h
    exact .txWrite hs
  case cycle =>
    change execCycle s = .next t at h
    unfold execCycle at h
    split at h
    · next hs => cases h; exact .cycleGate hs
    · next hs => cases h; exact .cycleRead hs
    · next hs => cases h; exact .cycleScan hs
    · next hs => cases h; exact .cycleEncode hs
    · next hs => cases h; exact .cycleWrite hs
    · cases h
    · cases h

/-- Everything an engine step can do (R181): nothing while BUSY = 0, one step of the operation CMD names, or the end of an
illegal word. -/
inductive EngineEffect (s : State) : State → Prop where
  | idle (hb : s.busy = false) : EngineEffect s s
  | operation (hb : s.busy = true) (i : Instr) (hi : decodeOp s.cmd = .ok i) (t : State) (ht : ExecEffect s i t) :
      EngineEffect s t
  | illegal (hb : s.busy = true) (hs : s.seq = .exec) (e : DecodeError) (he : decodeOp s.cmd = .error e) :
      EngineEffect s (complete .illegalOp s)

/-- An engine step (R181, R191). -/
theorem engineStep_effect {s t : State} (h : engineStep s = .next t) : EngineEffect s t := by
  unfold engineStep at h
  split at h
  · next hb =>
    split at h
    · next i hi => exact .operation hb i hi t (exec_effect h)
    · next e he =>
      obtain ⟨hs, rfl⟩ := next_of_ite h
      exact .illegal hb hs e he
  · next hb => cases h; exact .idle (by simpa using hb)

/-- Everything a step of the machine can do: the step of the agent whose turn it is (R72, R240). -/
inductive StepEffect (s : State) : State → Prop where
  | host (hn : nextTurn s = .host) (t : State) (ht : HostEffect (takeTurn s) t) : StepEffect s t
  | engine (hn : nextTurn s = .engine) (t : State) (ht : EngineEffect (takeTurn s) t) : StepEffect s t
  | reset (hn : nextTurn s = .reset) : StepEffect s (resetEvent (takeTurn s))

/-- A step of the machine (R72). -/
theorem step_effect {s t : State} (h : step s = .next t) : StepEffect s t := by
  unfold step at h
  cases hn : nextTurn s <;> rw [hn] at h
  · exact .host hn t (hostStep_effect h)
  · exact .engine hn t (engineStep_effect h)
  · cases h; exact .reset hn

/-! ### Each operation's engine step, in the sequencer state that takes it (R181) -/

theorem exec_nop_next {s : State} (h : s.seq = .exec) : exec .nop s = .next (complete .ok s) := if_pos h

theorem exec_crc8_next {s : State} (h : s.seq = .exec) : exec .crc8 s = .next (crc8Step s) := if_pos h

theorem exec_decode_next {s : State} (h : s.seq = .exec) : exec .decode s = .next (decodeStep s) := if_pos h

theorem exec_scan_next {s : State} (h : s.seq = .exec) : exec .scan s = .next (complete (scanResult s) (scanCommit s)) := if_pos h

theorem exec_encode_next {s : State} (h : s.seq = .exec) : exec .encode s = .next (complete .ok (encodeShadow s)) := if_pos h

theorem exec_rxRead_next {s : State} (h : s.seq = .read) : exec .rxRead s = .next (rxReadStep s) := if_pos h

theorem exec_txWrite_next {s : State} (h : s.seq = .write) : exec .txWrite s = .next (txWriteStep s) := if_pos h

theorem exec_cycleGate_next {s : State} (h : s.seq = .waitReady) : exec .cycle s = .next (cycleGate s) := by
  change execCycle s = _
  unfold execCycle
  rw [h]

theorem exec_cycleRead_next {s : State} (h : s.seq = .read) : exec .cycle s = .next (cycleRead s) := by
  change execCycle s = _
  unfold execCycle
  rw [h]

theorem exec_cycleScan_next {s : State} (h : s.seq = .scan) : exec .cycle s = .next (cycleScan s) := by
  change execCycle s = _
  unfold execCycle
  rw [h]

theorem exec_cycleEncode_next {s : State} (h : s.seq = .encode) : exec .cycle s = .next (cycleEncode s) := by
  change execCycle s = _
  unfold execCycle
  rw [h]

theorem exec_cycleWrite_next {s : State} (h : s.seq = .write) : exec .cycle s = .next (cycleWrite s) := by
  change execCycle s = _
  unfold execCycle
  rw [h]

theorem engineStep_operation {s : State} {i : Instr} (hb : s.busy = true) (hi : decodeOp s.cmd = .ok i) :
    engineStep s = exec i s := by
  unfold engineStep
  rw [if_pos hb, hi]

/-- The turn alone decides which agent steps (R8). -/
theorem step_eq (s : State) : step s = agentStep (nextTurn s) (takeTurn s) := rfl

/-- Synchronize-and-decode either leaves the state or commits the window the scan found (R155, R188). -/
theorem scanCommit_cases (s : State) :
    (scan (validRx s) = none ∧ scanCommit s = s) ∨
    (∃ i, scan (validRx s) = some i ∧
      scanCommit s = commitTelemetry i (telemetryOf (window (validRx s) i)) s) := by
  unfold scanCommit
  cases h : scan (validRx s) with
  | none => exact .inl ⟨rfl, rfl⟩
  | some i => exact .inr ⟨i, rfl, rfl⟩

/-- The parts of DECODE's step (R126). -/
theorem decodeStep_cases (s : State) :
    (decodeStep s = complete .badArg s) ∨
    (operandOffset s + 13 ≤ rxCount s ∧ validTelemetry (decodeSpan s) = true ∧
      decodeStep s = complete .ok (commitTelemetry (operandOffset s) (telemetryOf (decodeSpan s)) s)) ∨
    (operandOffset s + 13 ≤ rxCount s ∧ validTelemetry (decodeSpan s) = false ∧
      decodeStep s = complete .noFrame s) := by
  unfold decodeStep decodeTelemetry
  split
  · exact .inl rfl
  · next h =>
    have h' : operandOffset s + 13 ≤ rxCount s := by simp only [Config.frameIn] at h; omega
    cases hv : validTelemetry (decodeSpan s)
    · exact .inr (.inr ⟨h', rfl, rfl⟩)
    · exact .inr (.inl ⟨h', rfl, rfl⟩)

/-- The parts of CRC8's step (R105). -/
theorem crc8Step_cases (s : State) :
    (rxCount s < operandOffset s + operandLength s ∧ crc8Step s = complete .badArg s) ∨
    (operandOffset s + operandLength s ≤ rxCount s ∧
      crc8Step s = complete .ok { s with crcResult := crc8 (crcSpan s) }) := by
  unfold crc8Step
  split
  · next h => exact .inl ⟨h, rfl⟩
  · next h => exact .inr ⟨by omega, rfl⟩

/-- The parts of RX_READ's step (R183). -/
theorem rxReadStep_cases (s : State) :
    (readAnswer s = .err ∧ rxReadStep s = complete .rxTerr (afterRead s)) ∨
    (∃ bs, readAnswer s = .bytes bs ∧ rxReadStep s = complete .ok (takeBytes bs (afterRead s))) := by
  unfold rxReadStep; cases readAnswer s <;> simp

/-- The parts of TX_WRITE's step (R184). -/
theorem txWriteStep_cases (s : State) :
    (txCount s = 0 ∧ txWriteStep s = complete .badArg s) ∨
    (txCount s ≠ 0 ∧ writeAnswer s = .ok ∧ txWriteStep s = complete .ok (afterWrite (writeSpan s) s)) ∨
    (txCount s ≠ 0 ∧ (∃ n, writeAnswer s = .err n) ∧
      txWriteStep s = complete .txTerr (afterWrite (writeSpan s) s)) := by
  unfold txWriteStep
  split
  · next h => exact .inl ⟨h, rfl⟩
  · next h => cases writeAnswer s <;> simp [h]

/-- The parts of CYCLE's gate (R186). -/
theorem cycleGate_cases (s : State) :
    (s.ready = false ∧ cycleGate s = s) ∨
    (s.ready = true ∧ cycleGate s = { latchCommand s with ready := false, seq := .read }) := by
  unfold cycleGate; cases s.ready <;> simp

/-- The parts of CYCLE's READ step (R187). -/
theorem cycleRead_cases (s : State) :
    (readAnswer s = .err ∧ cycleRead s = complete .rxTerr (afterRead s)) ∨
    (∃ bs, readAnswer s = .bytes bs ∧ cycleRead s = { takeBytes bs (afterRead s) with seq := .scan }) := by
  unfold cycleRead; cases readAnswer s <;> simp

/-- The parts of CYCLE's WRITE step (R190). -/
theorem cycleWrite_cases (s : State) :
    (writeAnswer s = .ok ∧ cycleWrite s =
      complete (if s.frameValid then .ok else .noFrame) (afterWrite (txSpan s Config.frameOut) s)) ∨
    ((∃ n, writeAnswer s = .err n) ∧
      cycleWrite s = complete .txTerr (afterWrite (txSpan s Config.frameOut) s)) := by
  unfold cycleWrite; cases writeAnswer s <;> simp

/-- The answer to a read request is `Err` or at most 255 bytes (R171). -/
theorem readAnswer_bound {s : State} {bs : List Byte} (h : readAnswer s = .bytes bs) : bs.length ≤ 255 := by
  unfold readAnswer at h
  cases hd : s.port.reads.headD (freeRead s.port.readCount) with
  | err => rw [hd] at h; cases h
  | bytes l =>
    rw [hd] at h
    cases h
    simp [Config.rxCap]

/-- The span of RX has as many bytes as asked for. -/
@[simp] theorem length_rxSpan (s : State) (o n : Nat) : (rxSpan s o n).length = n := by simp [rxSpan]

/-- Spans of RX with the same bytes are equal. -/
theorem rxSpan_congr {s t : State} {o n : Nat} (h : ∀ k, k < n → rxByte t (o + k) = rxByte s (o + k)) :
    rxSpan t o n = rxSpan s o n :=
  List.map_congr_left fun k hk => h k (List.mem_range.1 hk)

/-- A byte of a span of RX. -/
theorem getElem?_rxSpan {s : State} {o n k : Nat} (h : k < n) : (rxSpan s o n)[k]? = some (rxByte s (o + k)) := by
  simp [rxSpan, h]

/-- Two states with the same memory and reset count have the same RX and TX. -/
theorem regionByte_of_mem {s t : State} (hm : t.mem = s.mem) (hr : t.resets = s.resets) (a : Nat) :
    regionByte t a = regionByte s a := by simp [regionByte, bufferByte, hm, hr]

theorem rxSpan_of_mem {s t : State} (hm : t.mem = s.mem) (hr : t.resets = s.resets) (o n : Nat) :
    rxSpan t o n = rxSpan s o n := by simp [rxSpan, rxByte, regionByte_of_mem hm hr]

theorem txSpan_of_mem {s t : State} (hm : t.mem = s.mem) (hr : t.resets = s.resets) (n : Nat) :
    txSpan t n = txSpan s n := by
  unfold txSpan; exact List.map_congr_left fun k _ => regionByte_of_mem hm hr _

/-- The frame an encode step writes has 14 bytes (R121). -/
@[simp] theorem length_encodeCommand (p y d : Word) : (encodeCommand p y d).length = 14 := rfl

end Sys2Proof.Machine
end

