-- ==== Sys2Proof/Tests/Slice0.lean ====
section
/-! SUPPORT. Tests: ill-formed terms that WellFormed refuses, command words written out bit by bit from 30_encoding.md R80 and R81,
single steps with the results of 95_test_vectors.md (parts L1 and L2), and, for every statement with hypotheses, a state
that meets them, clause by clause. -/

namespace Sys2Proof.Machine.Tests

/-! ### Helpers -/

/-- TLM1 of 95_test_vectors.md: {1.5, -2.25, 2, 1, 15}. -/
def tlm1 : List Byte := [0x5A, 0x00, 0x00, 0xC0, 0x3F, 0x00, 0x00, 0x10, 0xC0, 0x02, 0x01, 0x0F, 0xF7]

/-- TLM0 of 95_test_vectors.md: all fields 0. -/
def tlm0 : List Byte := [0x5A, 0x00, 0x00, 0x00, 0x00, 0x00, 0x00, 0x00, 0x00, 0x00, 0x00, 0x00, 0x09]

/-- CMD1 of 95_test_vectors.md: {10.0, -5.0, 2500.0}. -/
def cmd1 : List Byte := [0xA5, 0x00, 0x00, 0x20, 0x41, 0x00, 0x00, 0xA0, 0xC0, 0x00, 0x40, 0x1C, 0x45, 0xED]

/-- CMD0 of 95_test_vectors.md: all fields 0. -/
def cmd0 : List Byte := [0xA5, 0x00, 0x00, 0x00, 0x00, 0x00, 0x00, 0x00, 0x00, 0x00, 0x00, 0x00, 0x00, 0x9C]

/-- The state after reset with `bs` loaded in RX. -/
def loaded (bs : List Byte) : State := { fillRx bs State.reset with rxLen := BitVec.ofNat 8 bs.length }

/-- `s` with the command word `w` just accepted. -/
def accepted (w : Word) (s : State) : State := acceptCommand w s

/-- `s` with these answers coming. -/
def answers (r : List ReadAnswer) (w : List WriteAnswer) (s : State) : State :=
  { s with port := { s.port with reads := r, writes := w } }

/-- `s` with the next turn listed. -/
def turn (t : Turn) (s : State) : State := { s with sched := { s.sched with turns := [t] } }

/-- `s` with a host program, at its first statement. -/
def program (p : List HostStmt) (s : State) : State := { s with host := { prog := p, pc := 0, t := 0#32 } }

/-- `s` with the CMD_* registers of CMD1. -/
def aimed (s : State) : State :=
  { s with cmdPitch := 0x41200000#32, cmdYaw := 0xC0A00000#32, cmdDistance := 0x451C4000#32 }

/-- `s` with READY posted. -/
def posted (s : State) : State := { s with ready := true }

/-- `s` with CMD0 in TX, as an ENCODE leaves it. -/
def framed (s : State) : State := fillTx cmd0 s

/-- Something holds of the next state. -/
def nextIs (o : Host.Outcome State Fault Refusal) (p : State → Bool) : Bool :=
  match o with
  | .next t => p t
  | .fault _ => false
  | .refused _ => false

/-! ### Well-formedness refuses ill-formed terms (R61, R80, R82, R90) -/

theorem test_wf_reserved_op : (commandFields 0x00000008#32).wf = false := by decide

theorem test_wf_mbz : (commandFields 0x80000007#32).wf = false := by decide

theorem test_wf_legal_word : (commandFields 0x00000007#32).wf = true := by decide

/-- Misaligned, too narrow for a register, and outside the block. -/
theorem test_wf_access :
    hostProgramWf [.rd32 0x102] = false ∧ hostProgramWf [.wr8 0x004 0x02#32] = false ∧
      hostProgramWf [.rd8 0x400] = false := by decide

theorem test_wf_datum : hostProgramWf [.wr8 0x100 0x100#32] = false := by decide

theorem test_wf_label : hostProgramWf [.label 1, .brne 0x004 2#32 2#32 2] = false := by decide

theorem test_wf_legal_program :
    hostProgramWf (pseudoSetArg 1#32 12#32 ++ pseudoRun 1#32 5 ++ [.rd32 0x010, .halt]) = true := by decide

/-! ### Command words, bit by bit: MBZ in bits 31:4, OP in bits 3:0 (R80, R81) -/

theorem test_decode_nop : decodeOp 0b00000000000000000000000000000000#32 = .ok .nop := by decide

theorem test_decode_crc8 : decodeOp 0b00000000000000000000000000000001#32 = .ok .crc8 := by decide

theorem test_decode_decode : decodeOp 0b00000000000000000000000000000010#32 = .ok .decode := by decide

theorem test_decode_scan : decodeOp 0b00000000000000000000000000000011#32 = .ok .scan := by decide

theorem test_decode_encode : decodeOp 0b00000000000000000000000000000100#32 = .ok .encode := by decide

theorem test_decode_rx_read : decodeOp 0b00000000000000000000000000000101#32 = .ok .rxRead := by decide

theorem test_decode_tx_write : decodeOp 0b00000000000000000000000000000110#32 = .ok .txWrite := by decide

theorem test_decode_cycle : decodeOp 0b00000000000000000000000000000111#32 = .ok .cycle := by decide

/-- L2.5: the illegal words. -/
theorem test_decode_illegal :
    decodeOp 0b00000000000000000000000000001000#32 = .error .reservedOp ∧
    decodeOp 0b00000000000000000000000000010000#32 = .error .mbzNotZero ∧
    decodeOp 0b11111111111111111111111111111111#32 = .error .mbzNotZero := by decide

/-- A row of 32 bits is read; a number wider than one word is none. -/
theorem test_decode_table_word : decodeTableWord 32 3 = some .scan ∧ decodeTableWord 40 0x100000003 = none := by decide

/-! ### Checksums (L2.1) -/

theorem test_crc_check_values :
    crc8 [] = 0xFF#8 ∧ crc8 [0x00] = 0x35#8 ∧ crc8 [0xFF] = 0x00#8 ∧
      crc8 [0x31, 0x32, 0x33, 0x34, 0x35, 0x36, 0x37, 0x38, 0x39] = 0x0B#8 := by decide

theorem test_crc_frames : crc8 ((tlm1.drop 1).take 11) = 0xF7#8 ∧ crc8 (cmd1.drop 1) = 0x00#8 := by decide

/-! ### One engine step of each operation (L2.2-L2.5) -/

/-- L2.5: NOP from reset. -/
theorem test_nop : nextIs (engineStep (accepted 0#32 State.reset)) (fun t => statusWord t == 0x0002#32) = true := by decide

/-- L2.2: o 1, L 11 over TLM1. -/
theorem test_crc8_span :
    nextIs (engineStep (accepted 1#32 { loaded tlm1 with argOffset := 1#8, argLength := 11#8 }))
      (fun t => t.crcResult == 0xF7#8 && statusWord t == 0x0002#32) = true := by decide

/-- L2.2: o 1, L 13 leaves the 13 valid bytes. -/
theorem test_crc8_bad_arg :
    nextIs (engineStep (accepted 1#32 { loaded tlm1 with argOffset := 1#8, argLength := 13#8, crcResult := 0x77#8 }))
      (fun t => t.crcResult == 0x77#8 && statusWord t == 0x0502#32) = true := by decide

/-- L2.3: TLM0 ++ TLM1 at offset 13. -/
theorem test_decode_second_frame :
    nextIs (engineStep (accepted 2#32 { loaded (tlm0 ++ tlm1) with argOffset := 13#8 }))
      (fun t => t.tlmGainYaw == 0x3FC00000#32 && t.tlmGainPitch == 0xC0100000#32 && tlmFieldsWord t == 0x000F0102#32 &&
        t.frameOffset == 13#8 && statusWord t == 0x0006#32) = true := by decide

/-- L2.3: a check byte off by one. -/
theorem test_decode_bad_check :
    nextIs (engineStep (accepted 2#32 (loaded (tlm1.take 12 ++ [0xF8])))) (fun t => statusWord t == 0x0102#32) = true := by
  decide

/-- L2.4 S11: of two overlapping valid frames the one at the higher offset. -/
theorem test_scan_overlap :
    nextIs (engineStep (accepted 3#32 (loaded
        [0x5A, 0x5A, 0x00, 0x00, 0x00, 0x00, 0x00, 0x00, 0x00, 0x00, 0x00, 0x00, 0x1E, 0x8B])))
      (fun t => t.frameOffset == 1#8 && tlmFieldsWord t == 0x001E0000#32 && statusWord t == 0x0006#32) = true := by decide

/-- L2.4 S2: a short buffer. -/
theorem test_scan_short :
    nextIs (engineStep (accepted 3#32 (loaded (tlm1.take 12)))) (fun t => statusWord t == 0x0102#32) = true := by decide

/-- L2.3: CMD1. -/
theorem test_encode_frame :
    nextIs (engineStep (accepted 4#32 (aimed State.reset)))
      (fun t => txSpan t 14 == cmd1 && t.txLen == 14#8 && statusWord t == 0x0002#32) = true := by decide

/-- L3 P2: a CMD_* write after acceptance is too late for this ENCODE. -/
theorem test_encode_latched :
    nextIs (engineStep { accepted 4#32 (aimed State.reset) with cmdPitch := 0#32 }) (fun t => txSpan t 14 == cmd1) = true := by
  decide

/-- L2.5: the read answers TLM1. -/
theorem test_rx_read_bytes :
    nextIs (engineStep (accepted 5#32 (answers [.bytes tlm1] [] State.reset)))
      (fun t => rxSpan t 0 13 == tlm1 && t.rxLen == 13#8 && statusWord t == 0x0002#32) = true := by decide

/-- L2.5: the read answers Err. -/
theorem test_rx_read_err :
    nextIs (engineStep (accepted 5#32 (answers [.err] [] (loaded tlm1))))
      (fun t => t.rxLen == 13#8 && statusWord t == 0x0202#32) = true := by decide

/-- L2.5: the write answers Err. -/
theorem test_tx_write_err :
    nextIs (engineStep (accepted 6#32 (answers [] [.err 3] (framed State.reset))))
      (fun t => t.port.log == [.write cmd0 (.err 3)] && t.txLen == 14#8 && statusWord t == 0x0302#32) = true := by decide

/-- L2.5: with TX_LEN 0 no request is made. -/
theorem test_tx_write_empty :
    nextIs (engineStep (accepted 6#32 State.reset)) (fun t => t.port.log == [] && statusWord t == 0x0502#32) = true := by decide

/-- L2.5: with READY not posted STATUS stays 0x2001. -/
theorem test_cycle_waits :
    nextIs (engineStep (accepted 7#32 State.reset)) (fun t => statusWord t == 0x2001#32) = true := by decide

/-- R188: the SCAN step commits and raises CDONE together. -/
theorem test_cycle_scan :
    nextIs (engineStep { accepted 7#32 (loaded tlm1) with seq := .scan })
      (fun t => t.cdone && t.frameValid && t.tlmGainYaw == 0x3FC00000#32 && statusWord t == 0x5005#32) = true := by decide

/-- L2.5: an illegal word is accepted (0x1001) and ends with ILLEGAL_OP. -/
theorem test_illegal_word :
    statusWord (accepted 0x80000007#32 (posted State.reset)) = 0x1001#32 ∧
    nextIs (engineStep (accepted 0x80000007#32 (posted State.reset)))
      (fun t => t.ready && t.cmd == 0x80000007#32 && statusWord t == 0x0402#32) = true := by decide

/-- L2.5: STATUS right after acceptance. -/
theorem test_status_after_acceptance :
    statusWord (accepted 5#32 State.reset) = 0x3001#32 ∧ statusWord (accepted 6#32 State.reset) = 0x6001#32 ∧
      statusWord (accepted 7#32 State.reset) = 0x2001#32 ∧ statusWord (accepted 4#32 State.reset) = 0x1001#32 := by decide

/-- The placed command runs in the very next step (log 16): SCAN from reset, L2.5. -/
theorem test_fetch_scan :
    nextIs (step (State.reset.withFetchWord 32 3)) (fun t => t.cmd == 3#32 && statusWord t == 0x0102#32) = true := by decide

/-! ### The bus (L2.6) -/

theorem test_bus_rx :
    memRead (loaded tlm1) 0x100 4 = some 0xC000005A#32 ∧ memRead (loaded tlm1) 0x103 1 = some 0x000000C0#32 := by decide

/-- RX[252..254] = 11 22 33, and byte 0x1FF reads 0. -/
theorem test_bus_rx_top :
    memRead { State.reset with mem := [(0x1FC, 0x11), (0x1FD, 0x22), (0x1FE, 0x33)] } 0x1FC 4 = some 0x00332211#32 := by decide

theorem test_bus_tx :
    memRead (fillTx cmd1 State.reset) 0x200 4 = some 0x200000A5#32 ∧
      memRead (fillTx cmd1 State.reset) 0x20C 4 = some 0x0000ED45#32 := by decide

theorem test_bus_not_admitted :
    memWrite State.reset 0x004 1 0x02#32 = none ∧ memRead State.reset 0x102 4 = none ∧ memRead State.reset 0x400 1 = none := by
  decide

theorem test_bus_read_only :
    memWrite (framed State.reset) 0x200 4 0xFFFFFFFF#32 = some (framed State.reset) ∧
      memWrite State.reset 0x038 4 1#32 = some State.reset ∧ memRead State.reset 0x038 4 = some 0#32 := by decide

theorem test_bus_busy_locked :
    memWrite (accepted 7#32 State.reset) 0x008 4 0x0D00#32 = some { accepted 7#32 State.reset with wrIgn := true } ∧
      memWrite (accepted 7#32 State.reset) 0x105 1 0x99#32 = some { accepted 7#32 State.reset with wrIgn := true } := by decide

/-- DONE 1, WR_IGN 1, RESULT 2: the write of all ones clears the first two. -/
theorem test_bus_status_write :
    (memWrite { State.reset with done := true, wrIgn := true, result := .rxTerr } 0x004 4 0xFFFFFFFF#32).map statusWord =
      some 0x0200#32 := by decide

theorem test_bus_arg_write : (memWrite State.reset 0x008 4 0xFFFFFFFF#32).map argWord = some 0x0000FFFF#32 := by decide

/-- R192, U6: an observation does not tell how much of a frame a write answered Err sent, and does tell Ok from Err. -/
theorem test_observe_sent (s : State) (bs : List Byte) (m n : Nat) :
    observe { s with port := { s.port with log := [.write bs (.err m)] } } =
        observe { s with port := { s.port with log := [.write bs (.err n)] } } ∧
      observeRequest (.write bs .ok) ≠ observeRequest (.write bs (.err n)) :=
  ⟨rfl, by simp [observeRequest]⟩

/-- R33: SPEED 0x0F, COLOR 0x01 and MODE 0x02 are read as 0x000F0102 (the worked example of R126). -/
theorem test_bus_tlm_fields :
    memRead { State.reset with tlmMode := 0x02#8, tlmColor := 0x01#8, tlmSpeed := 0x0F#8 } 0x020 4 = some 0x000F0102#32 := by
  decide

/-- R90: WR32 and WR8 of the host's program store and go on. -/
theorem test_host_writes :
    nextIs (hostStmt (.wr32 0x024 7#32) State.reset) (fun t => t.cmdPitch == 7#32 && t.host.pc == 1) = true ∧
      nextIs (hostStmt (.wr8 0x100 7#32) State.reset) (fun t => rxByte t 0 == 7#8 && t.host.pc == 1) = true := by decide

/-! ### States that meet the statements' hypotheses -/

/-- StepRunsTheDecodedOperation. -/
theorem test_witness_step_runs :
    nextTurn (turn .engine (accepted 3#32 State.reset)) = .engine ∧
    (turn .engine (accepted 3#32 State.reset)).busy = true ∧
    decodeOp (turn .engine (accepted 3#32 State.reset)).cmd = .ok .scan ∧ Instr.wf .scan = true := by decide

/-- IdleEngineKeepsItsState. -/
theorem test_witness_idle :
    nextTurn (turn .engine State.reset) = .engine ∧ (turn .engine State.reset).busy = false := by decide

/-- HostTurnRunsItsStatement: a statement, and HALT. -/
theorem test_witness_host_turn :
    (nextTurn (turn .host (program [.rd32 0x004] State.reset)) = .host ∧
      (turn .host (program [.rd32 0x004] State.reset)).host.prog[0]? = some (.rd32 0x004)) ∧
    (nextTurn (turn .host (program [.halt] State.reset)) = .host ∧
      (turn .host (program [.halt] State.reset)).host.prog[0]? = some .halt) := by decide

/-- PlacedCommandRunsNext. -/
theorem test_witness_placed : Instr.wf .cycle = true ∧ (State.reset.withFetchWord 32 7).seq = .waitReady := by decide

/-- CommandWriteIsAccepted, RegisterWritesReadBack and the writes of BufferWindowsAreReadAndWritten: an idle engine. -/
theorem test_witness_idle_write : State.reset.busy = false := by decide

/-- CommandWriteIsAccepted, its second clause: a busy engine. -/
theorem test_witness_busy_write : (accepted 7#32 State.reset).busy = true := by decide

/-- IllegalWordEndsWithIllegalOp: each of its two reasons, at its least value. -/
theorem test_witness_illegal :
    State.reset.busy = false ∧ 8 ≤ (8#32 : Word).toNat % 16 ∧ (16#32 : Word).toNat / 16 ≠ 0 ∧ (16#32 : Word).toNat % 16 < 8 := by
  decide

/-- Crc8Laws, its law 5. -/
theorem test_witness_crc_law : (0x00#8 : Byte) ≠ 0x01#8 := by decide

/-- Crc8OperationChecksumsItsSpan: the span that just fits, and the one that is one byte too long. -/
theorem test_witness_crc8 :
    (accepted 1#32 { loaded tlm1 with argOffset := 1#8, argLength := 12#8 }).seq = .exec ∧
    (1#8 : Byte).toNat + (12#8 : Byte).toNat ≤ (loaded tlm1).rxLen.toNat ∧
    (accepted 1#32 { loaded tlm1 with argOffset := 14#8, argLength := 0#8 }).seq = .exec ∧
    (loaded tlm1).rxLen.toNat < (14#8 : Byte).toNat + (0#8 : Byte).toNat := by decide

/-- FramesRoundTrip, its second half. -/
theorem test_witness_round_trip : validTelemetry tlm1 = true := by decide

/-- DecodeOperationTakesItsCandidate: a frame that just fits, a window that is none, and one that leaves the valid bytes. -/
theorem test_witness_decode :
    ((accepted 2#32 { loaded (tlm0 ++ tlm1) with argOffset := 13#8 }).seq = .exec ∧
      frameAt { loaded (tlm0 ++ tlm1) with argOffset := 13#8 } 13) ∧
    ((12#8 : Byte).toNat + 13 ≤ (loaded (tlm0 ++ tlm1)).rxLen.toNat ∧
      ¬ frameAt { loaded (tlm0 ++ tlm1) with argOffset := 12#8 } 12) ∧
    (loaded (tlm0 ++ tlm1)).rxLen.toNat < (14#8 : Byte).toNat + 13 := by decide

/-- EncodeOperationWritesTheFrame and NopOnlyCompletes. -/
theorem test_witness_exec : (accepted 4#32 State.reset).seq = .exec ∧ (accepted 0#32 State.reset).seq = .exec := by decide

/-- AcceptanceTestsSyncAndCheckByte: the last window of a buffer. -/
theorem test_witness_window : 13 + 13 ≤ (tlm0 ++ tlm1).length ∧ acceptAt (tlm0 ++ tlm1) 13 = true := by decide

/-- ScanOperationTakesTheNewestFrame and CycleScanCommitsAndSignals: a newest frame. -/
theorem test_witness_newest :
    (accepted 3#32 (loaded tlm1)).seq = .exec ∧ frameAt (accepted 3#32 (loaded tlm1)) 0 ∧
    (∀ j, 0 < j → ¬ frameAt (accepted 3#32 (loaded tlm1)) j) ∧
    frameAt { accepted 7#32 (loaded tlm1) with seq := .scan } 0 ∧
    (∀ j, 0 < j → ¬ frameAt { accepted 7#32 (loaded tlm1) with seq := .scan } j) := by
  refine ⟨by decide, by decide, fun j hj h => ?_, by decide, fun j hj h => ?_⟩ <;>
    exact absurd h.1 (by change ¬ j + 13 ≤ 13; omega)

/-- ScanOperationTakesTheNewestFrame and CycleScanCommitsAndSignals: no frame. -/
theorem test_witness_no_frame :
    (accepted 3#32 (loaded (tlm1.take 12))).seq = .exec ∧ (∀ i, ¬ frameAt (accepted 3#32 (loaded (tlm1.take 12))) i) ∧
    (∀ i, ¬ frameAt { accepted 7#32 (loaded (tlm1.take 12)) with seq := .scan } i) := by
  refine ⟨by decide, fun i h => ?_, fun i h => ?_⟩ <;> exact absurd h.1 (by change ¬ i + 13 ≤ 12; omega)

/-- BytesBeyondRxLenNeverMatter: RX_LEN 12, and a memory that differs at index 12. -/
theorem test_witness_beyond :
    (∀ k, k < (accepted 3#32 (loaded (tlm1.take 12))).rxLen.toNat →
      rxByte { accepted 3#32 (loaded (tlm1.take 12)) with mem := (loaded tlm1).mem } k =
        rxByte (accepted 3#32 (loaded (tlm1.take 12))) k) ∧
    ∃ t, exec .scan (accepted 3#32 (loaded (tlm1.take 12))) = .next t :=
  ⟨by decide, _, rfl⟩

/-- R171: an answer is at most 255 bytes. -/
theorem test_read_bound (bs : List Byte) (s : State) : readAnswer (answers [.bytes bs] [] s) = .bytes (bs.take 255) := rfl

/-- RxReadFillsTheBuffer and CycleReadFillsTheBuffer: Err, no byte, and an answer cut to 255 bytes. -/
theorem test_witness_read :
    ((accepted 5#32 State.reset).seq = .read ∧ ({ accepted 7#32 State.reset with seq := .read } : State).seq = .read) ∧
    readAnswer (answers [.err] [] (accepted 5#32 State.reset)) = .err ∧
    readAnswer (answers [.bytes []] [] (accepted 5#32 State.reset)) = .bytes [] ∧
    readAnswer (answers [.bytes (List.replicate 256 0#8)] [] (accepted 5#32 State.reset)) =
      .bytes ((List.replicate 256 0#8).take 255) :=
  ⟨⟨rfl, rfl⟩, rfl, rfl, test_read_bound _ _⟩

/-- TxWriteHandsOverTheFrame and CycleWriteEndsTheCycle: nothing to write, Ok, and Err. -/
theorem test_witness_write :
    ((accepted 6#32 State.reset).seq = .write ∧ ({ accepted 7#32 State.reset with seq := .write } : State).seq = .write) ∧
    (accepted 6#32 State.reset).txLen = 0#8 ∧ (accepted 6#32 (framed State.reset)).txLen ≠ 0#8 ∧
    writeAnswer (answers [] [.ok] (accepted 6#32 (framed State.reset))) = .ok ∧
    writeAnswer (answers [] [.err 14] (accepted 6#32 (framed State.reset))) = .err 14 := by decide

/-- CycleGateConsumesReady and CycleWaitsWithoutReady: READY posted, and not. -/
theorem test_witness_gate :
    (accepted 7#32 (posted State.reset)).seq = .waitReady ∧ (accepted 7#32 (posted State.reset)).ready = true ∧
    (accepted 7#32 State.reset).seq = .waitReady ∧ (accepted 7#32 State.reset).ready = false ∧
    (accepted 7#32 State.reset).busy = true ∧ decodeOp (accepted 7#32 State.reset).cmd = .ok .cycle := by decide

/-- CycleEncodeWritesTheFrame. -/
theorem test_witness_cycle_encode : ({ accepted 7#32 State.reset with seq := .encode } : State).seq = .encode := by decide

/-- A CYCLE about to run with these answers. -/
def ready7 (bs : List Byte) : State := answers [.bytes bs] [.ok] (accepted 7#32 (posted State.reset))

/-- CycleRunsEndToEnd: with a frame, and without one. -/
theorem test_witness_end_to_end :
    (ready7 tlm1).busy = true ∧ decodeOp (ready7 tlm1).cmd = .ok .cycle ∧ (ready7 tlm1).seq = .waitReady ∧
    (ready7 tlm1).ready = true ∧ (ready7 tlm1).frameValid = false ∧ tlm1.length ≤ 255 ∧
    (ready7 tlm1).port.reads = .bytes tlm1 :: [] ∧ (ready7 tlm1).port.writes = .ok :: [] ∧
    scan tlm1 = some 0 ∧ (ready7 []).port.reads = .bytes [] :: [] ∧ scan [] = none := by decide

/-- OperationsEndInBoundedSteps: an operation that is not CYCLE, an illegal word, and a CYCLE with READY posted. -/
theorem test_witness_bounded :
    (Inv (accepted 1#32 State.reset) ∧ (accepted 1#32 State.reset).busy = true ∧
      decodeOp (accepted 1#32 State.reset).cmd ≠ .ok .cycle) ∧
    (Inv (accepted 8#32 State.reset) ∧ decodeOp (accepted 8#32 State.reset).cmd ≠ .ok .cycle) ∧
    ((ready7 tlm1).busy = true ∧ decodeOp (ready7 tlm1).cmd = .ok .cycle ∧ (ready7 tlm1).seq = .waitReady ∧
      (ready7 tlm1).ready = true) := by
  unfold Inv; decide

/-- LatchSeparatesCommandAndShadow: an operation after the latch, the gate before it, and an operation that encodes nothing. -/
theorem test_witness_latch :
    (∃ t, exec .encode (accepted 4#32 (aimed State.reset)) = .next t) ∧
    ((accepted 7#32 (posted State.reset)).seq = .waitReady ∧ (accepted 7#32 (posted State.reset)).ready = true ∧
      ∃ t, exec .cycle (accepted 7#32 (posted State.reset)) = .next t) ∧
    ∃ t, exec .scan (accepted 3#32 (loaded tlm1)) = .next t :=
  ⟨⟨_, rfl⟩, ⟨rfl, rfl, _, rfl⟩, _, rfl⟩

/-- OperationsKeepOtherRegisters: a next state of every operation. -/
theorem test_witness_keep_registers :
    (∃ t, exec .nop (accepted 0#32 State.reset) = .next t) ∧ (∃ t, exec .crc8 (accepted 1#32 State.reset) = .next t) ∧
    (∃ t, exec .decode (accepted 2#32 (loaded tlm1)) = .next t) ∧ (∃ t, exec .scan (accepted 3#32 (loaded tlm1)) = .next t) ∧
    (∃ t, exec .encode (accepted 4#32 State.reset) = .next t) ∧
    (∃ t, exec .rxRead (answers [.bytes tlm1] [] (accepted 5#32 State.reset)) = .next t) ∧
    (∃ t, exec .txWrite (answers [] [.ok] (accepted 6#32 (framed State.reset))) = .next t) ∧
    ∃ t, exec .cycle (ready7 tlm1) = .next t :=
  ⟨⟨_, rfl⟩, ⟨_, rfl⟩, ⟨_, rfl⟩, ⟨_, rfl⟩, ⟨_, rfl⟩, ⟨_, rfl⟩, ⟨_, rfl⟩, _, rfl⟩

/-- OperationsKeepOtherBytes: the addresses next to the stored bytes of an encode step and of a read of 13 bytes. -/
theorem test_witness_keep_bytes :
    (∃ t, exec .encode (accepted 4#32 State.reset) = .next t) ∧ ¬ (0x200 ≤ 0x1FE ∧ 0x1FE < 0x200 + 14) ∧
    (∃ t, exec .rxRead (answers [.bytes tlm1] [] (accepted 5#32 State.reset)) = .next t) ∧
    readAnswer (answers [.bytes tlm1] [] (accepted 5#32 State.reset)) = .bytes tlm1 ∧
    ¬ (0x100 ≤ 0x10D ∧ 0x10D < 0x100 + tlm1.length) :=
  ⟨⟨_, rfl⟩, by decide, ⟨_, rfl⟩, rfl, by decide⟩

/-- ErrorsArePrecise: ILLEGAL_OP, BAD_ARG and RX_TERR. -/
theorem test_witness_errors :
    nextIs (engineStep (accepted 8#32 State.reset)) (fun t => !t.busy && t.result == .illegalOp) = true ∧
    nextIs (engineStep (accepted 6#32 State.reset)) (fun t => !t.busy && t.result == .badArg) = true ∧
    nextIs (engineStep (answers [.err] [] (accepted 5#32 State.reset))) (fun t => !t.busy && t.result == .rxTerr) = true := by
  decide

/-- BusErrorFaultsTheHost: a misaligned read and a byte write to a register. -/
theorem test_witness_bus_error :
    (nextTurn (turn .host (program [.rd32 0x102] State.reset)) = .host ∧
      HostStmt.access? (.rd32 0x102) = some (0x102, 4) ∧ admitted 0x102 4 = false) ∧
    (nextTurn (turn .host (program [.wr8 0x0FF 1#32] State.reset)) = .host ∧
      HostStmt.access? (.wr8 0x0FF 1#32) = some (0x0FF, 1) ∧ admitted 0x0FF 1 = false) := by decide

/-- WellFormedHostProgramNeverFaults. -/
theorem test_witness_host_program :
    hostProgramWf (program (pseudoWaitDone 1 ++ [.halt]) State.reset).host.prog = true := by decide

/-- HostReadsHaveNoSideEffects and HostWritesStoreAndGoOn: the last word and the last byte of the block. -/
theorem test_witness_host_accesses :
    admitted 0x3FC 4 = true ∧ admitted 0x000 4 = true ∧ admitted 0x3FF 1 = true ∧ admitted 0x100 1 = true := by decide

/-- HostBranchesCompareMaskedReads: a branch taken and one not taken by the same read. -/
theorem test_witness_branches :
    memRead State.reset 0x004 4 = some 0#32 ∧ findLabel 1 [.halt, .label 1] = some 1 ∧
    (0#32 : Word) &&& 2#32 = 0#32 ∧ (0#32 : Word) &&& 2#32 ≠ 2#32 := by decide

/-- ReadOnlyAndReservedOffsetsIgnoreWrites: the ends of each range. -/
theorem test_witness_read_only :
    0x034 ∈ [0x010, 0x014, 0x018, 0x01C, 0x020, 0x034] ∧ (0x038 % 4 = 0 ∧ 0x038 ≤ 0x0FC ∧ 0x0FC % 4 = 0 ∧ 0x0FC < 0x100) ∧
    (0x200 % 4 = 0 ∧ 0x3FC % 4 = 0 ∧ 0x3FC < 0x400) ∧ (0x1FF ≤ 0x3FF ∧ 0x3FF < 0x400) ∧ 0x210 % 4 = 0 ∧
    (0x20E ≤ 0x20E ∧ 0x20E < 0x400) := by decide

/-- BusyLockedWritesSetWrIgn: each locked offset, with the ends of the RX window. -/
theorem test_witness_busy_locked :
    (accepted 7#32 State.reset).busy = true ∧ admitted 0x000 4 = true ∧ admitted 0x008 4 = true ∧ admitted 0x00C 4 = true ∧
    admitted 0x100 1 = true ∧ admitted 0x1FE 1 = true ∧ admitted 0x1FC 4 = true := by decide

/-- BusyLockedWritesSetWrIgn: WR_IGN cleared by the host's write, and by a reset. -/
theorem test_witness_wr_ign_cleared :
    nextIs (step (turn .host (program [.wr32 0x004 8#32] { State.reset with wrIgn := true }))) (fun t => !t.wrIgn) = true ∧
    nextIs (step (turn .reset { State.reset with wrIgn := true })) (fun t => !t.wrIgn) = true := by decide

/-- BufferWindowsAreReadAndWritten: the last byte and the last word of each window. -/
theorem test_witness_windows :
    254 ≤ 254 ∧ 63 < 64 ∧ 13 ≤ 13 ∧ 2 < 3 ∧ State.reset.busy = false ∧ 2 < 4 ∧ 4 * 63 + 2 ≤ 254 := by decide

/-- ResetClearsEveryRegister: the last register word, and a reset in the middle of a CYCLE. -/
theorem test_witness_reset :
    0x0FC % 4 = 0 ∧ 0x0FC < 0x100 ∧ nextTurn (turn .reset (accepted 7#32 State.reset)) = .reset := by decide

/-- EveryStepKeepsTheInvariant: an engine, a host and a reset step, from states that meet the invariant. -/
theorem test_witness_invariant :
    (Inv (turn .engine (accepted 7#32 (posted (framed State.reset)))) ∧
      nextIs (step (turn .engine (accepted 7#32 (posted (framed State.reset))))) (fun t => t.seq == .read) = true) ∧
    (Inv (turn .host (program [.wr32 0x000 7#32] State.reset)) ∧
      nextIs (step (turn .host (program [.wr32 0x000 7#32] State.reset))) (fun t => t.busy) = true) ∧
    (Inv (turn .reset (accepted 7#32 State.reset)) ∧
      nextIs (step (turn .reset (accepted 7#32 State.reset))) (fun t => !t.busy) = true) := by
  unfold Inv; decide

/-- OnlyTheHostCanFault: the two faults of a host program. -/
theorem test_witness_host_faults :
    Inv (turn .host (program [.rd32 0x102] State.reset)) ∧
    step (turn .host (program [.rd32 0x102] State.reset)) = .fault .busError ∧
    Inv (turn .host (program [.breq 0x004 0#32 0#32 9] State.reset)) ∧
    step (turn .host (program [.breq 0x004 0#32 0#32 9] State.reset)) = .fault .undefinedLabel :=
  ⟨by unfold Inv; decide, rfl, by unfold Inv; decide, rfl⟩

/-- TelemetryComesFromOneFrame: a SCAN that changes the record, and one that only raises FRAME_VALID. -/
theorem test_witness_telemetry :
    nextTurn (turn .engine (accepted 3#32 (loaded tlm1))) ≠ .reset ∧
    nextIs (step (turn .engine (accepted 3#32 (loaded tlm1))))
      (fun t => telemetryRecord t != telemetryRecord (turn .engine (accepted 3#32 (loaded tlm1)))) = true ∧
    nextIs (step (turn .engine (accepted 3#32 (loaded tlm0))))
      (fun t => telemetryRecord t == telemetryRecord (turn .engine (accepted 3#32 (loaded tlm0))) && t.frameValid) = true := by
  decide

/-- CrcResultIsWrittenByCrc8Alone. -/
theorem test_witness_crc_result :
    nextTurn (turn .engine (accepted 1#32 State.reset)) ≠ .reset ∧
    nextIs (step (turn .engine (accepted 1#32 State.reset))) (fun t => t.crcResult != State.reset.crcResult) = true := by decide

/-- HandoffTokensAreOneWay: READY rises and falls, and CDONE rises and falls. -/
theorem test_witness_handoff :
    nextIs (step (turn .host (program [.wr32 0x030 1#32] State.reset))) (fun t => t.ready) = true ∧
    nextIs (step (turn .engine (accepted 7#32 (posted State.reset)))) (fun t => !t.ready) = true ∧
    nextIs (step (turn .engine { accepted 7#32 State.reset with seq := .scan })) (fun t => t.cdone) = true ∧
    nextIs (step (turn .host (program [.wr32 0x030 2#32] { State.reset with cdone := true }))) (fun t => !t.cdone) = true := by
  decide

/-- HostCannotDisturbARunningOperation: a write to ARG and a write to CMD_PITCH while a CYCLE waits. -/
theorem test_witness_disturb :
    nextIs (step (turn .host (program [.wr32 0x008 5#32] (accepted 7#32 State.reset)))) (fun t => t.busy && t.wrIgn) = true ∧
    nextIs (step (turn .host (program [.wr32 0x024 5#32] (accepted 7#32 State.reset)))) (fun t => t.cmdPitch == 5#32) = true := by
  decide

/-- TransportIsUsedInReadAndWriteOnly: a read step and a write step. -/
theorem test_witness_transport :
    nextIs (step (turn .engine (accepted 5#32 (answers [.bytes tlm1] [] State.reset)))) (fun t => t.port.readCount == 1) = true ∧
    nextIs (step (turn .engine (accepted 6#32 (answers [] [.ok] (framed State.reset))))) (fun t => t.port.writeCount == 1) =
      true := by decide

/-- DoneRisesWithCompletion. -/
theorem test_witness_done :
    (turn .engine (accepted 0#32 State.reset)).done = false ∧
    nextIs (step (turn .engine (accepted 0#32 State.reset))) (fun t => t.done) = true := by decide

/-- The step the host's interface names is this machine's, from the state after reset. -/
theorem test_core : Sys2Proof.core.reset = State.reset ∧ Sys2Proof.core.step = step := ⟨rfl, rfl⟩

end Sys2Proof.Machine.Tests
end

section
/-! Byte assembly (00_scope.md R11): `le32` lays its four bytes side by side from bit 0 up, and each byte of the word is
read back at its place. -/

namespace Sys2Proof.Machine

/-- A word is the assembly of its own bytes: neighbouring fields join to one field, up to the whole word. -/
theorem le32_bytes_of_word (w : Word) :
    le32 (w.extractLsb' 0 8) (w.extractLsb' 8 8) (w.extractLsb' 16 8) (w.extractLsb' 24 8) = w := by
  have h23 : w.extractLsb' 24 8 ++ w.extractLsb' 16 8 = w.extractLsb' 16 16 :=
    BitVec.extractLsb'_append_extractLsb'_eq_extractLsb' rfl
  have h123 : w.extractLsb' 16 16 ++ w.extractLsb' 8 8 = w.extractLsb' 8 24 :=
    BitVec.extractLsb'_append_extractLsb'_eq_extractLsb' rfl
  have h0123 : w.extractLsb' 8 24 ++ w.extractLsb' 0 8 = w := BitVec.extractLsb'_append_extractLsb'
  rw [le32, h23, h123, h0123]

section
variable (b0 b1 b2 b3 : Byte)

@[simp] theorem byte0_le32 : (le32 b0 b1 b2 b3).extractLsb' 0 8 = b0 :=
  BitVec.extractLsb'_append_eq_right

@[simp] theorem byte1_le32 : (le32 b0 b1 b2 b3).extractLsb' 8 8 = b1 := by
  rw [le32, BitVec.extractLsb'_append_eq_of_le (by decide)]
  exact BitVec.extractLsb'_append_eq_right

@[simp] theorem byte2_le32 : (le32 b0 b1 b2 b3).extractLsb' 16 8 = b2 := by
  rw [le32, BitVec.extractLsb'_append_eq_of_le (by decide), BitVec.extractLsb'_append_eq_of_le (by decide)]
  exact BitVec.extractLsb'_append_eq_right

@[simp] theorem byte3_le32 : (le32 b0 b1 b2 b3).extractLsb' 24 8 = b3 := by
  rw [le32, BitVec.extractLsb'_append_eq_of_le (by decide), BitVec.extractLsb'_append_eq_of_le (by decide)]
  exact BitVec.extractLsb'_append_eq_left

@[simp] theorem bytesLe32_le32 : bytesLe32 (le32 b0 b1 b2 b3) = [b0, b1, b2, b3] := by
  rw [bytesLe32, byte0_le32, byte1_le32, byte2_le32, byte3_le32]

end

/-- Settles O17: R11's two laws, `le32_bytes_of_word` for the word and `bytesLe32_le32` for the four bytes. -/
theorem byteAssemblyIsInverse : Obligations.ByteAssemblyIsInverse :=
  ⟨fun w => ⟨_, _, _, _, rfl, le32_bytes_of_word w⟩, bytesLe32_le32⟩

end Sys2Proof.Machine
end

section
/-! The command frame and TX (41_codec.md R121, R122, R127): a command frame is read back, an encode step's frame is
what TX then holds, and nothing that stores in RX reaches TX. -/

namespace Sys2Proof.Machine

/-- The decoder reads the fields of a command frame back (R122 after R121, R128). -/
theorem decodeCommand_encodeCommand (p y d : Word) :
    decodeCommand (encodeCommand p y d) = some { pitch := p, yaw := y, distance := d } := by
  have hlen : (encodeCommand p y d).length = Config.frameOut := rfl
  have hsync : frameByte (encodeCommand p y d) 0 = Config.syncOut := rfl
  have hcheck : frameByte (encodeCommand p y d) 13 = crc8 (framePayload (encodeCommand p y d) 12) := rfl
  have hp : frameField (encodeCommand p y d) 1 = p := le32_bytes_of_word p
  have hy : frameField (encodeCommand p y d) 5 = y := le32_bytes_of_word y
  have hd : frameField (encodeCommand p y d) 9 = d := le32_bytes_of_word d
  rw [decodeCommand, if_pos ⟨hlen, hsync, hcheck⟩, hp, hy, hd]

/-- An encode step's 14 bytes are what TX then holds (R127). -/
theorem txSpan_fillTx {bs : List Byte} (h : bs.length = 14) (s : State) : txSpan (fillTx bs s) 14 = bs := by
  refine List.ext_getElem (by simp [txSpan, h]) fun k hk hk' => ?_
  have hk14 : k < 14 := by omega
  have hbyte : txByte (fillTx bs s) k = bs.getD k 0#8 := by
    rw [txByte, regionByte_memStoreList _ (fillTx_mem bs s) rfl, if_pos ⟨isBuffer_tx (by omega), by omega, by omega⟩,
      Nat.add_sub_cancel_left]
  simp [txSpan, hbyte, hk']

/-- The offsets outside the RX window (R60). -/
theorem isRx_eq_false_iff {a : Nat} : isRx a = false ↔ a < 0x100 ∨ 0x1FE < a := by
  simp only [isRx, Bool.and_eq_false_iff, decide_eq_false_iff_not]
  omega

/-- Two states that differ in RX bytes alone have the same TX (R60). -/
theorem txSpan_of_rxStores {s t : State}
    (hm : ∀ x, isRx x = false → memLookup t.mem x = memLookup s.mem x) (hr : t.resets = s.resets) (n : Nat) :
    txSpan t n = txSpan s n := by
  have hnot (k : Nat) : isRx (0x200 + k) = false := isRx_eq_false_iff.2 (by omega)
  exact List.map_congr_left fun k _ => regionByte_congr _ (hm _ (hnot k)) hr

/-- A read step stores in RX alone (R183): at most 255 bytes from index 0. -/
theorem memLookup_takeBytes {bs : List Byte} (h : bs.length ≤ 255) (s : State) (x : Nat) (hx : isRx x = false) :
    memLookup (takeBytes bs s).mem x = memLookup s.mem x := by
  have hout := isRx_eq_false_iff.1 hx
  rw [takeBytes_mem, memLookup_memStoreList, if_neg (by omega)]

end Sys2Proof.Machine
end

section
/-! The invariant (10_state.md R24, R25, R38, R41; 43_session.md R180, R181): its two forms, idle and in progress,
and that every step of every agent keeps it. -/

namespace Sys2Proof.Machine

/-- What `txInv` says of TX in every state (R38, R41, R121): nothing was encoded, or TX is a valid command frame. -/
def TxHeld (s : State) : Prop :=
  s.txLen = 0#8 ∨ (s.txLen = 14#8 ∧ (decodeCommand (txSpan s Config.frameOut)).isSome = true)

/-- What the invariant says while BUSY = 1 (R14, R24, R180, R181, R189). -/
structure InProgress (s : State) : Prop where
  pair : pairOccurs s.seq (decodeOp s.cmd) = true
  done : s.done = false
  result : s.result = .ok
  frame : clearsFrameValid (decodeOp s.cmd) = true → s.seq ≠ .encode → s.seq ≠ .write → s.frameValid = false
  framed : s.seq = .write → decodeOp s.cmd = .ok .cycle → s.txLen = 14#8

theorem txHeld_of_same {s t : State} (h : TxHeld s) (hlen : t.txLen = s.txLen)
    (htx : txSpan t Config.frameOut = txSpan s Config.frameOut) : TxHeld t := by
  unfold TxHeld
  rwa [hlen, htx]

theorem txHeld_encodeShadow (s : State) : TxHeld (encodeShadow s) := by
  refine .inr ⟨encodeShadow_txLen s, ?_⟩
  have htx : txSpan (encodeShadow s) Config.frameOut = encodeCommand s.shadowPitch s.shadowYaw s.shadowDistance :=
    txSpan_fillTx (length_encodeCommand ..) s
  rw [htx, decodeCommand_encodeCommand]
  rfl

theorem txInv_iff (s : State) : txInv s = true ↔
    TxHeld s ∧ (s.seq = .write → decodeOp s.cmd = .ok .cycle → s.txLen = 14#8) := by
  simp [txInv, TxHeld, or_iff_not_imp_left]

theorem inv_of_idle {s : State} (hb : s.busy = false) (hs : s.seq = .idle) (hm : memWf s.mem = true)
    (ht : TxHeld s) : Inv s :=
  ⟨hm, by simp [seqInv, hb, hs], by simp [flagInv, hb], by simp [frameInv, hb],
    (txInv_iff s).2 ⟨ht, by simp [hs]⟩⟩

theorem inv_of_busy {s : State} (hb : s.busy = true) (hp : InProgress s) (hm : memWf s.mem = true)
    (ht : TxHeld s) : Inv s := by
  refine ⟨hm, by simp [seqInv, hb, hp.pair], by simp [flagInv, hp.done, hp.result], ?_,
    (txInv_iff s).2 ⟨ht, hp.framed⟩⟩
  simpa [frameInv, hb, or_iff_not_imp_left] using hp.frame

section
variable {s : State} (h : Inv s)
include h

theorem Inv.memWf : memWf s.mem = true := h.1

theorem Inv.txHeld : TxHeld s := by
  obtain ⟨-, -, -, -, htx⟩ := h
  exact ((txInv_iff s).1 htx).1

theorem Inv.seq_of_idle (hb : s.busy = false) : s.seq = .idle := by
  obtain ⟨-, hseq, -⟩ := h
  simpa [seqInv, hb] using hseq

theorem Inv.inProgress (hb : s.busy = true) : InProgress s := by
  obtain ⟨-, hseq, hflag, hframe, htx⟩ := h
  have hflags : s.done = false ∧ s.result = .ok := by simpa [flagInv, hb] using hflag
  exact ⟨by simpa [seqInv, hb] using hseq, hflags.1, hflags.2,
    by simpa [frameInv, hb, or_iff_not_imp_left] using hframe, ((txInv_iff s).1 htx).2⟩

end

/-! ### Acceptance and the end of an operation -/

/-- Every command starts in a sequencer state that R181 pairs with it. -/
theorem pairOccurs_firstState (op : Except DecodeError Instr) : pairOccurs (firstState op) op = true := by
  cases op with
  | error _ => rfl
  | ok i => cases i <;> rfl

/-- CYCLE starts at its gate (R180). -/
theorem firstState_cycle : firstState (.ok .cycle) = .waitReady := rfl

theorem inv_complete {s : State} (c : ResultCode) (hm : memWf s.mem = true) (ht : TxHeld s) : Inv (complete c s) :=
  inv_of_idle rfl rfl hm (txHeld_of_same ht rfl rfl)

theorem inv_acceptCommand {s : State} (v : Word) (h : Inv s) : Inv (acceptCommand v s) := by
  refine inv_of_busy rfl ⟨pairOccurs_firstState _, rfl, rfl, ?_, ?_⟩ h.memWf (txHeld_of_same h.txHeld rfl rfl)
  · intro hclears _ _
    exact if_pos hclears
  · intro hseq hop
    simp only [acceptCommand_seq, acceptCommand_cmd] at hseq hop
    rw [hop, firstState_cycle] at hseq
    cases hseq

/-! ### The host's steps -/

/-- A write of RX bytes, which happens only while BUSY = 0 (R65), keeps TX. -/
theorem inv_rxBytes {s : State} {m : List Host.Cell} (h : Inv s) (hb : s.busy = false)
    (hw : memWf s.mem = true → memWf m = true)
    (hm : ∀ x, isRx x = false → memLookup m x = memLookup s.mem x) : Inv { s with mem := m } :=
  inv_of_idle hb (h.seq_of_idle hb) (hw h.memWf) (txHeld_of_same h.txHeld rfl
    (txSpan_of_rxStores (t := { s with mem := m }) hm rfl _))

/-- A write to STATUS can only clear flags (R24), so DONE stays 0 while BUSY = 1. -/
theorem inv_writeStatus {s : State} (v : Word) (h : Inv s) : Inv (writeStatus v s) := by
  cases hb : s.busy with
  | false => exact inv_of_idle hb (h.seq_of_idle hb) h.memWf (txHeld_of_same h.txHeld rfl rfl)
  | true =>
    obtain ⟨hpair, hdone, hresult, hframe, hframed⟩ := h.inProgress hb
    exact inv_of_busy hb ⟨hpair, by simp [hdone], hresult, hframe, hframed⟩ h.memWf
      (txHeld_of_same h.txHeld rfl rfl)

/-- The invariant does not read ARG, RX_LEN, CMD_*, HANDOFF or WR_IGN: writes to them keep it as it stands. -/
theorem inv_writeEffect {a n : Nat} {v : Word} {s t : State} (hw : WriteEffect a n v s t) (h : Inv s) : Inv t := by
  cases hw with
  | ignored => exact h
  | busyLocked _ => exact h
  | accepted _ _ _ => exact inv_acceptCommand v h
  | status _ _ => exact inv_writeStatus v h
  | arg _ _ _ => exact h
  | rxLen _ _ => exact h
  | command _ _ _ => exact h
  | handoff _ _ => exact h
  | rxBytes hb _ hmw hm => exact inv_rxBytes h hb hmw hm

theorem inv_hostEffect {s t : State} (ht : HostEffect s t) (h : Inv s) : Inv t := by
  cases ht with
  | own _ => exact h
  | write a n v s' hw _ => exact (inv_writeEffect hw h : Inv s')

/-! ### The engine's steps -/

/-- The bytes of a read answer go to RX, at most 255 of them (R171, R183). -/
theorem memWf_takeBytes {s : State} {bs : List Byte} (hbs : bs.length ≤ 255) (hm : memWf s.mem = true) :
    memWf (takeBytes bs s).mem = true :=
  memWf_memStoreList hm fun _ hk => isBuffer_rx (by omega)

theorem txHeld_takeBytes {s : State} {bs : List Byte} (hbs : bs.length ≤ 255) (ht : TxHeld s) :
    TxHeld (takeBytes bs s) :=
  txHeld_of_same ht rfl (txSpan_of_rxStores (memLookup_takeBytes hbs s) rfl _)

/-- An encode step stores 14 bytes in TX (R127). -/
theorem memWf_encodeShadow {s : State} (hm : memWf s.mem = true) : memWf (encodeShadow s).mem = true := by
  rw [encodeShadow_mem]
  exact memWf_memStoreList hm fun _ hk => isBuffer_tx (by rw [length_encodeCommand] at hk; omega)

theorem inv_crc8Step {s : State} (h : Inv s) : Inv (crc8Step s) := by
  obtain ⟨_, hs⟩ | ⟨_, hs⟩ := crc8Step_cases s
  all_goals rw [hs]; exact inv_complete _ h.memWf h.txHeld

theorem inv_decodeStep {s : State} (h : Inv s) : Inv (decodeStep s) := by
  obtain hs | ⟨_, _, hs⟩ | ⟨_, _, hs⟩ := decodeStep_cases s
  all_goals rw [hs]; exact inv_complete _ h.memWf h.txHeld

theorem txHeld_scanCommit {s : State} (ht : TxHeld s) : TxHeld (scanCommit s) :=
  txHeld_of_same ht (scanCommit_txLen s) (txSpan_of_mem (scanCommit_mem s) (scanCommit_resets s) _)

theorem inv_rxReadStep {s : State} (h : Inv s) : Inv (rxReadStep s) := by
  obtain ⟨_, hs⟩ | ⟨bs, hbs, hs⟩ := rxReadStep_cases s
  · rw [hs]
    exact inv_complete _ h.memWf h.txHeld
  · have hlen := readAnswer_bound hbs
    rw [hs]
    exact inv_complete _ (memWf_takeBytes hlen h.memWf) (txHeld_takeBytes hlen h.txHeld)

theorem inv_txWriteStep {s : State} (h : Inv s) : Inv (txWriteStep s) := by
  obtain ⟨_, hs⟩ | ⟨_, _, hs⟩ | ⟨_, _, hs⟩ := txWriteStep_cases s
  all_goals rw [hs]; exact inv_complete _ h.memWf h.txHeld

theorem inv_cycleWrite {s : State} (h : Inv s) : Inv (cycleWrite s) := by
  obtain ⟨_, hs⟩ | ⟨_, hs⟩ := cycleWrite_cases s
  all_goals rw [hs]; exact inv_complete _ h.memWf h.txHeld

section
variable {s : State} (h : Inv s) (hb : s.busy = true) (hop : decodeOp s.cmd = .ok .cycle)
include h hb hop

/-- A step that takes a CYCLE in progress on to state `q` (R185) keeps the invariant if FRAME_VALID is 0 as long as `q`
comes before the commit (R24), and TX is filled when `q` is WRITE (R189). -/
theorem inv_cycle_goes_on (u : State) (q : SeqState) (hcmd : u.cmd = s.cmd) (hbusy : u.busy = s.busy)
    (hdone : u.done = s.done) (hresult : u.result = s.result) (hpair : pairOccurs q (.ok .cycle) = true)
    (hframe : q ≠ .encode → q ≠ .write → u.frameValid = false) (hframed : q = .write → u.txLen = 14#8)
    (hm : memWf u.mem = true) (ht : TxHeld u) : Inv { u with seq := q } := by
  obtain ⟨-, hd, hr, -, -⟩ := h.inProgress hb
  refine inv_of_busy (hbusy.trans hb) ⟨?_, hdone.trans hd, hresult.trans hr, fun _ => hframe, fun hw _ => hframed hw⟩
    hm ht
  rwa [hcmd, hop]

/-- FRAME_VALID is 0 in the states of CYCLE before its commit (R24). -/
theorem frameValid_before_commit (he : s.seq ≠ .encode) (hw : s.seq ≠ .write) : s.frameValid = false :=
  (h.inProgress hb).frame (by rw [hop]; rfl) he hw

theorem inv_cycleGate (hs : s.seq = .waitReady) : Inv (cycleGate s) := by
  have hfv := frameValid_before_commit h hb hop (by simp [hs]) (by simp [hs])
  obtain ⟨_, hg⟩ | ⟨_, hg⟩ := cycleGate_cases s
  · rwa [hg]
  · rw [hg]
    exact inv_cycle_goes_on h hb hop { latchCommand s with ready := false } .read rfl rfl rfl rfl rfl (fun _ _ => hfv)
      nofun h.memWf (txHeld_of_same h.txHeld rfl rfl)

theorem inv_cycleRead (hs : s.seq = .read) : Inv (cycleRead s) := by
  have hfv := frameValid_before_commit h hb hop (by simp [hs]) (by simp [hs])
  obtain ⟨_, hr⟩ | ⟨bs, hbs, hr⟩ := cycleRead_cases s
  · rw [hr]
    exact inv_complete _ h.memWf h.txHeld
  · have hlen := readAnswer_bound hbs
    rw [hr]
    exact inv_cycle_goes_on h hb hop (takeBytes bs (afterRead s)) .scan (takeBytes_cmd ..) (takeBytes_busy ..)
      (takeBytes_done ..) (takeBytes_result ..) rfl (fun _ _ => hfv) nofun
      (memWf_takeBytes hlen h.memWf) (txHeld_takeBytes hlen h.txHeld)

theorem inv_cycleScan : Inv (cycleScan s) := by
  refine inv_cycle_goes_on h hb hop { scanCommit s with cdone := true } .encode (scanCommit_cmd s) (scanCommit_busy s)
    (scanCommit_done s) (scanCommit_result s) rfl (fun he _ => absurd rfl he) nofun ?_ (txHeld_scanCommit h.txHeld)
  rw [scanCommit_mem]
  exact h.memWf

theorem inv_cycleEncode : Inv (cycleEncode s) :=
  inv_cycle_goes_on h hb hop (encodeShadow s) .write (encodeShadow_cmd s) (encodeShadow_busy s) (encodeShadow_done s)
    (encodeShadow_result s) rfl (fun _ hw => absurd rfl hw) (fun _ => encodeShadow_txLen s)
    (memWf_encodeShadow h.memWf) (txHeld_encodeShadow s)

end

theorem inv_execEffect {i : Instr} {s t : State} (ht : ExecEffect s i t) (h : Inv s) (hb : s.busy = true)
    (hop : decodeOp s.cmd = .ok i) : Inv t := by
  cases ht with
  | nop _ => exact inv_complete _ h.memWf h.txHeld
  | crc8 _ => exact inv_crc8Step h
  | decode _ => exact inv_decodeStep h
  | scan _ => exact inv_complete _ (by rw [scanCommit_mem]; exact h.memWf) (txHeld_scanCommit h.txHeld)
  | encode _ => exact inv_complete _ (memWf_encodeShadow h.memWf) (txHeld_encodeShadow s)
  | rxRead _ => exact inv_rxReadStep h
  | txWrite _ => exact inv_txWriteStep h
  | cycleGate hs => exact inv_cycleGate h hb hop hs
  | cycleRead hs => exact inv_cycleRead h hb hop hs
  | cycleScan _ => exact inv_cycleScan h hb hop
  | cycleEncode _ => exact inv_cycleEncode h hb hop
  | cycleWrite _ => exact inv_cycleWrite h

theorem inv_engineEffect {s t : State} (ht : EngineEffect s t) (h : Inv s) : Inv t := by
  cases ht with
  | idle _ => exact h
  | operation hb i hi _ ht => exact inv_execEffect ht h hb hi
  | illegal _ _ _ _ => exact inv_complete _ h.memWf h.txHeld

theorem inv_resetEvent (s : State) : Inv (resetEvent s) := inv_of_idle rfl rfl rfl (.inl rfl)

/-- Settles O51: reset leaves the engine idle with nothing encoded. -/
theorem resetStateMeetsTheInvariant : Obligations.ResetStateMeetsTheInvariant :=
  inv_of_idle rfl rfl memWf_reset (.inl rfl)

/-- Settles O52: the step is the host's, the engine's or a reset, and taking the turn changes nothing that the
invariant reads. -/
theorem everyStepKeepsTheInvariant : Obligations.EveryStepKeepsTheInvariant := by
  intro s t h hstep
  have hturn : Inv (takeTurn s) := h
  cases step_effect hstep with
  | host _ _ ht => exact inv_hostEffect ht hturn
  | engine _ _ ht => exact inv_engineEffect ht hturn
  | reset _ => exact inv_resetEvent _

end Sys2Proof.Machine
end

section
/-! The decoder (30_encoding.md R80-R82): a word that it reads as an operation is the one the encoder writes for it. -/

namespace Sys2Proof.Machine

/-- The decoder accepts one word per operation, the one the encoder writes (R80-R82). -/
theorem eq_encode_of_decodeOp {w : Word} {i : Instr} (h : decodeOp w = .ok i) : w = encode i := by
  have hw : w.extractLsb' 4 28 ++ w.extractLsb' 0 4 = w := BitVec.extractLsb'_append_extractLsb'
  unfold decodeOp at h
  split at h
  · next hmbz =>
    have hop : w.extractLsb' 0 4 = opcode i := by
      apply BitVec.eq_of_toNat_eq
      split at h <;> cases h <;> assumption
    rw [← hw, hop, show w.extractLsb' 4 28 = 0#28 from hmbz]
    rfl
  · cases h

end Sys2Proof.Machine
end

section
/-! What an operation's step leaves unchanged (10_state.md R45), for each of the steps of `ExecEffect`. -/

namespace Sys2Proof.Machine

/-- `ExecEffect` lists the engine's steps exactly: the converse of `exec_effect`. -/
theorem exec_of_effect {i : Instr} {s t : State} (ht : ExecEffect s i t) : exec i s = .next t := by
  cases ht with
  | nop hs => exact exec_nop_next hs
  | crc8 hs => exact exec_crc8_next hs
  | decode hs => exact exec_decode_next hs
  | scan hs => exact exec_scan_next hs
  | encode hs => exact exec_encode_next hs
  | rxRead hs => exact exec_rxRead_next hs
  | txWrite hs => exact exec_txWrite_next hs
  | cycleGate hs => exact exec_cycleGate_next hs
  | cycleRead hs => exact exec_cycleRead_next hs
  | cycleScan hs => exact exec_cycleScan_next hs
  | cycleEncode hs => exact exec_cycleEncode_next hs
  | cycleWrite hs => exact exec_cycleWrite_next hs

/-- Settles O36: each operation's step (`ExecEffect`), split into the results its rule gives, writes no other
register. -/
theorem operationsKeepOtherRegisters : Obligations.OperationsKeepOtherRegisters := by
  intro i s t h
  cases exec_effect h with
  | nop _ => simp [telemetryRecord]
  | crc8 _ => obtain ⟨_, ht⟩ | ⟨_, ht⟩ := crc8Step_cases s <;> simp [ht, telemetryRecord]
  | decode _ => obtain ht | ⟨_, _, ht⟩ | ⟨_, _, ht⟩ := decodeStep_cases s <;> simp [ht]
  | scan _ => simp
  | encode _ => simp [telemetryRecord]
  | rxRead _ => obtain ⟨_, ht⟩ | ⟨_, _, ht⟩ := rxReadStep_cases s <;> simp [ht, telemetryRecord]
  | txWrite _ => obtain ⟨_, ht⟩ | ⟨_, _, ht⟩ | ⟨_, _, ht⟩ := txWriteStep_cases s <;> simp [ht, telemetryRecord]
  | cycleGate hs => obtain ⟨_, ht⟩ | ⟨_, ht⟩ := cycleGate_cases s <;> simp [ht, hs, telemetryRecord]
  | cycleRead hs => obtain ⟨_, ht⟩ | ⟨_, _, ht⟩ := cycleRead_cases s <;> simp [ht, hs, telemetryRecord]
  | cycleScan hs => simp [hs]
  | cycleEncode hs => simp [hs, telemetryRecord]
  | cycleWrite hs => obtain ⟨_, ht⟩ | ⟨_, ht⟩ := cycleWrite_cases s <;> simp [ht, hs, telemetryRecord]

end Sys2Proof.Machine
end

section
/-! Frames in RX (41_codec.md R120, R123, R126; 42_synchronizer.md R150-R155): the windows that the codec tests
are spans of RX, and what DECODE and the synchronizer commit is a frame that lies valid there. -/

namespace Sys2Proof.Machine

/-- The descending search answers an accepted offset not above the one it starts at (R150). -/
theorem scanDown_some {bs : List Byte} {n i : Nat} (h : scanDown bs n = some i) :
    i ≤ n ∧ acceptAt bs i = true := by
  induction n with
  | zero =>
    unfold scanDown at h
    split at h
    · next hacc => cases h; exact ⟨le_rfl, hacc⟩
    · cases h
  | succ n ih =>
    unfold scanDown at h
    split at h
    · next hacc => cases h; exact ⟨le_rfl, hacc⟩
    · obtain ⟨hle, hacc⟩ := ih h
      exact ⟨by omega, hacc⟩

/-- The offset a scan answers is accepted and its window lies within the list (R150-R152). -/
theorem scan_some {bs : List Byte} {i : Nat} (h : scan bs = some i) : i + 13 ≤ bs.length ∧ acceptAt bs i = true := by
  unfold scan at h
  split at h
  · cases h
  · next hlen =>
    obtain ⟨hle, hacc⟩ := scanDown_some h
    rw [Config.frameIn] at hlen hle
    exact ⟨by omega, hacc⟩

/-- A part of a span of RX is a span of RX. -/
theorem take_drop_rxSpan (s : State) (o : Nat) {n a b : Nat} (h : a + b ≤ n) :
    ((rxSpan s o n).drop a).take b = rxSpan s (o + a) b := by
  refine List.ext_getElem (by simp; omega) fun k _ _ => ?_
  simp [rxSpan, Nat.add_assoc]

/-- A window of the valid bytes is a span of RX (R28, R151). -/
theorem window_validRx {s : State} {i : Nat} (h : i + 13 ≤ rxCount s) : window (validRx s) i = rxSpan s i 13 := by
  rw [window, validRx, Config.frameIn, take_drop_rxSpan s 0 h, Nat.zero_add]

theorem frameByte_rxSpan {s : State} {i n k : Nat} (h : k < n) : frameByte (rxSpan s i n) k = rxByte s (i + k) := by
  rw [frameByte, List.getD_eq_getElem?_getD, getElem?_rxSpan h, Option.getD_some]

/-- The payload of the candidate at offset `i` of RX (R16, R85). -/
theorem framePayload_rxSpan (s : State) (i : Nat) : framePayload (rxSpan s i 13) 11 = rxSpan s (i + 1) 11 :=
  take_drop_rxSpan s i (by omega)

/-- `validTelemetry` (R120) of the candidate at offset `i` of RX, byte by byte: `frameAt` is this and the bound. -/
theorem validTelemetry_rxSpan (s : State) (i : Nat) : validTelemetry (rxSpan s i 13) = true ↔
    rxByte s i = 0x5A#8 ∧ rxByte s (i + 12) = crc8 (rxSpan s (i + 1) 11) := by
  simp [validTelemetry, framePayload_rxSpan, frameByte_rxSpan, Config.frameIn, Config.syncIn]

/-- The commit of the candidate at offset `i` of RX (R123). -/
theorem commitTelemetry_rxSpan (s : State) (i : Nat) :
    commitTelemetry i (telemetryOf (rxSpan s i 13)) s = withFrame s i := by
  simp [commitTelemetry, telemetryOf, frameField, frameByte_rxSpan, withFrame]

/-- Synchronize-and-decode commits a frame that lies valid in RX, or nothing (R155, R188). -/
theorem scanCommit_keeps_or_takes (s : State) :
    scanCommit s = s ∨ ∃ i, frameAt s i ∧ scanCommit s = withFrame s i := by
  obtain ⟨_, hs⟩ | ⟨i, hi, hs⟩ := scanCommit_cases s
  · exact .inl hs
  · obtain ⟨hlen, hacc⟩ := scan_some hi
    rw [validRx, length_rxSpan] at hlen
    rw [acceptAt, window_validRx hlen, validTelemetry_rxSpan] at hacc
    rw [window_validRx hlen, commitTelemetry_rxSpan] at hs
    exact .inr ⟨i, ⟨hlen, hacc⟩, hs⟩

/-- DECODE commits a frame that lies valid in RX, or nothing (R126). -/
theorem decodeStep_keeps_or_takes (s : State) :
    (∃ c, decodeStep s = complete c s) ∨ ∃ i, frameAt s i ∧ decodeStep s = complete .ok (withFrame s i) := by
  obtain hs | ⟨hlen, hacc, hs⟩ | ⟨_, _, hs⟩ := decodeStep_cases s
  · exact .inl ⟨_, hs⟩
  · have hspan : decodeSpan s = rxSpan s (operandOffset s) 13 := rfl
    rw [hspan, validTelemetry_rxSpan] at hacc
    rw [hspan, commitTelemetry_rxSpan] at hs
    exact .inr ⟨_, ⟨hlen, hacc⟩, hs⟩
  · exact .inl ⟨_, hs⟩

end Sys2Proof.Machine
end

section
/-! The telemetry registers (10_state.md R47): every step keeps them or takes them all from one frame. -/

namespace Sys2Proof.Machine

/-- R47's all: FRAME_VALID is 1 and the telemetry registers and FRAME_OFFSET are those of one valid frame in RX. -/
def TakesOneFrame (s t : State) : Prop :=
  t.frameValid = true ∧ ∃ i, frameAt s i ∧ telemetryRecord t = telemetryRecord (withFrame s i)

/-- R47's nothing: the registers stay, and FRAME_VALID does not rise (an acceptance may clear it, R180). -/
def KeepsTelemetry (s t : State) : Prop :=
  telemetryRecord t = telemetryRecord s ∧ (t.frameValid = true → s.frameValid = true)

theorem KeepsTelemetry.refl (s : State) : KeepsTelemetry s s := ⟨rfl, id⟩

theorem writeEffect_keepsTelemetry {a n : Nat} {v : Word} {s t : State} (hw : WriteEffect a n v s t) :
    KeepsTelemetry s t := by
  cases hw with
  | accepted _ _ _ => exact ⟨rfl, by simp⟩
  | _ => exact ⟨rfl, id⟩

theorem hostEffect_keepsTelemetry {s t : State} (ht : HostEffect s t) : KeepsTelemetry s t := by
  cases ht with
  | own _ => exact .refl s
  | write _ _ _ s' hw _ => exact (writeEffect_keepsTelemetry hw : KeepsTelemetry s s')

theorem scanCommit_telemetry (s : State) : KeepsTelemetry s (scanCommit s) ∨ TakesOneFrame s (scanCommit s) := by
  obtain ht | ⟨i, hi, ht⟩ := scanCommit_keeps_or_takes s <;> rw [ht]
  · exact .inl (.refl s)
  · exact .inr ⟨rfl, i, hi, rfl⟩

theorem decodeStep_telemetry (s : State) : KeepsTelemetry s (decodeStep s) ∨ TakesOneFrame s (decodeStep s) := by
  obtain ⟨_, ht⟩ | ⟨i, hi, ht⟩ := decodeStep_keeps_or_takes s <;> rw [ht]
  · exact .inl (.refl s)
  · exact .inr ⟨rfl, i, hi, rfl⟩

/-- The three steps that can commit a frame are those of DECODE, of SCAN and of CYCLE in SCAN; every other keeps the
registers (`operationsKeepOtherRegisters`). -/
theorem execEffect_keeps_or_takes {i : Instr} {s t : State} (ht : ExecEffect s i t) :
    KeepsTelemetry s t ∨ TakesOneFrame s t := by
  obtain ⟨-, -, hkeep, -⟩ := operationsKeepOtherRegisters i s t (exec_of_effect ht)
  cases ht with
  | decode _ => exact decodeStep_telemetry s
  | scan _ => exact scanCommit_telemetry s
  | cycleScan _ => exact scanCommit_telemetry s
  | _ =>
    obtain ⟨hrec, hfv⟩ := hkeep (by simp) (by simp) (by simp [*])
    exact .inl ⟨hrec, hfv ▸ id⟩

theorem engineEffect_keeps_or_takes {s t : State} (ht : EngineEffect s t) :
    KeepsTelemetry s t ∨ TakesOneFrame s t := by
  cases ht with
  | idle _ => exact .inl (.refl s)
  | operation _ i _ _ ht => exact execEffect_keeps_or_takes ht
  | illegal _ _ _ _ => exact .inl (.refl s)

/-- A change of the record or a rise of FRAME_VALID is what `KeepsTelemetry` rules out. -/
theorem KeepsTelemetry.not_changed {s t : State} (hk : KeepsTelemetry s t) :
    ¬ (telemetryRecord t ≠ telemetryRecord s ∨ (s.frameValid = false ∧ t.frameValid = true)) := by
  obtain ⟨hrec, hfv⟩ := hk
  rintro (hne | ⟨hs, ht⟩)
  · exact hne hrec
  · exact absurd (hfv ht) (by simp [hs])

/-- Settles O54: a host step keeps the telemetry registers, and an engine step keeps them or takes one frame. -/
theorem telemetryComesFromOneFrame : Obligations.TelemetryComesFromOneFrame := by
  refine ⟨fun s t hreset hstep hchanged => ?_, rfl, rfl⟩
  cases step_effect hstep with
  | host _ _ ht => exact absurd hchanged (hostEffect_keepsTelemetry ht).not_changed
  | engine hn _ ht =>
    obtain hk | ⟨hfv, hframe⟩ := engineEffect_keeps_or_takes ht
    · exact absurd hchanged hk.not_changed
    · exact ⟨hn, hfv, hframe⟩
  | reset hn => exact absurd hn hreset

end Sys2Proof.Machine
end

section
/-! CRC_RESULT (10_state.md R29): every step but that of CRC8 keeps it. -/

namespace Sys2Proof.Machine

theorem writeEffect_crcResult {a n : Nat} {v : Word} {s t : State} (hw : WriteEffect a n v s t) :
    t.crcResult = s.crcResult := by
  cases hw <;> rfl

theorem hostEffect_crcResult {s t : State} (ht : HostEffect s t) : t.crcResult = s.crcResult := by
  cases ht with
  | own _ => rfl
  | write _ _ _ s' hw _ => exact (writeEffect_crcResult hw : s'.crcResult = s.crcResult)

/-- CRC8 changes CRC_RESULT by ending with OK alone (R105). -/
theorem crc8Step_crcResult {s : State} (h : (crc8Step s).crcResult ≠ s.crcResult) :
    (crc8Step s).result = .ok ∧ (crc8Step s).crcResult = crc8 (crcSpan s) := by
  obtain ⟨_, ht⟩ | ⟨_, ht⟩ := crc8Step_cases s
  · exact absurd (by rw [ht]; rfl) h
  · rw [ht]
    exact ⟨rfl, rfl⟩

/-- An engine step that changes CRC_RESULT is CRC8's (`operationsKeepOtherRegisters`). -/
theorem engineEffect_crcResult {s t : State} (ht : EngineEffect s t) (h : t.crcResult ≠ s.crcResult) :
    s.busy = true ∧ s.cmd = 1#32 ∧ t.result = .ok ∧ t.crcResult = crc8 (crcSpan s) := by
  cases ht with
  | idle _ => exact absurd rfl h
  | operation hb i hi _ ht =>
    obtain ⟨-, hkeep, -⟩ := operationsKeepOtherRegisters i s t (exec_of_effect ht)
    obtain rfl : i = .crc8 := by_contra fun hne => h (hkeep hne)
    cases ht
    exact ⟨hb, eq_encode_of_decodeOp hi, crc8Step_crcResult h⟩
  | illegal _ _ _ _ => exact absurd rfl h

/-- Settles O55: of the steps that are no reset only CRC8's writes CRC_RESULT. -/
theorem crcResultIsWrittenByCrc8Alone : Obligations.CrcResultIsWrittenByCrc8Alone := by
  intro s t hreset hstep hchanged
  cases step_effect hstep with
  | host _ _ ht => exact absurd (hostEffect_crcResult ht) hchanged
  | engine hn _ ht => exact ⟨hn, engineEffect_crcResult (s := takeTurn s) ht hchanged⟩
  | reset hn => exact absurd hn hreset

end Sys2Proof.Machine
end

section
/-! The host's bus (20_memory.md R61, R63-R66), by the part of the block that an access names, the register
words field by field (10_state.md R22-R38), and the words after reset (R46). -/

namespace Sys2Proof.Machine

/-! ### What a host access does, by the part of the block it names (R61, R63-R66) -/

theorem admitted_register {a : Nat} (h4 : a % 4 = 0) (h : a < 0x100) : admitted a 4 = true := by
  simp [admitted, h, h4]

theorem admitted_word {a : Nat} (h4 : a % 4 = 0) (hlo : 0x100 ≤ a) (hhi : a < 0x400) : admitted a 4 = true := by
  simp [admitted, h4, hhi, Nat.not_lt.2 hlo]

theorem admitted_byte {a : Nat} (hlo : 0x100 ≤ a) (hhi : a < 0x400) : admitted a 1 = true := by
  simp [admitted, hhi, Nat.not_lt.2 hlo]

theorem memRead_register (s : State) {a : Nat} (h4 : a % 4 = 0) (h : a < 0x100) :
    memRead s a 4 = some (readRegister s a) := by
  rw [memRead, if_pos (admitted_register h4 h), if_pos h]

theorem memRead_word (s : State) {a : Nat} (h4 : a % 4 = 0) (hlo : 0x100 ≤ a) (hhi : a < 0x400) :
    memRead s a 4 =
      some (le32 (regionByte s a) (regionByte s (a + 1)) (regionByte s (a + 2)) (regionByte s (a + 3))) := by
  rw [memRead, if_pos (admitted_word h4 hlo hhi), if_neg (by omega), if_neg (by decide)]

theorem memRead_byte (s : State) {a : Nat} (hlo : 0x100 ≤ a) (hhi : a < 0x400) :
    memRead s a 1 = some (byteWord (regionByte s a)) := by
  rw [memRead, if_pos (admitted_byte hlo hhi), if_neg (by omega), if_pos rfl]

theorem memWrite_register (s : State) {a : Nat} (v : Word) (h4 : a % 4 = 0) (h : a < 0x100) :
    memWrite s a 4 v = some (writeRegister a v s) := by
  rw [memWrite, if_pos (admitted_register h4 h), if_pos h]

theorem memWrite_window (s : State) {a n : Nat} (v : Word) (hadm : admitted a n = true) (hlo : 0x100 ≤ a) :
    memWrite s a n v = some (writeWindow a n v s) := by
  rw [memWrite, if_pos hadm, if_neg (by omega)]

/-! ### Registers, field by field (R22-R38) -/

/-- A concatenation as a number: the high part counts in units of the low part's range. -/
theorem toNat_append_eq {m n : Nat} (x : BitVec m) (y : BitVec n) : (x ++ y).toNat = x.toNat * 2 ^ n + y.toNat := by
  rw [BitVec.toNat_append, ← Nat.shiftLeft_add_eq_or_of_lt y.isLt, Nat.shiftLeft_eq]

/-- STATUS as a number, by its fields (R24). -/
theorem toNat_statusWord (s : State) : (statusWord s).toNat =
    (seqCode s.seq).toNat * 4096 + (resultCode s.result).toNat * 256 + s.wrIgn.toNat * 8 + s.frameValid.toNat * 4 +
      s.done.toNat * 2 + s.busy.toNat := by
  simp only [statusWord, toNat_append_eq, bit, BitVec.toNat_ofBool, BitVec.toNat_ofNat]
  omega

/-- HANDOFF as a number, by its fields (R37). -/
theorem toNat_handoffWord (s : State) : (handoffWord s).toNat = s.cdone.toNat * 2 + s.ready.toNat := by
  simp only [handoffWord, toNat_append_eq, bit, BitVec.toNat_ofBool, BitVec.toNat_ofNat]
  omega

theorem byteWord_eq (b : Byte) : byteWord b = b.setWidth 32 := (BitVec.setWidth_eq_append (by decide)).symm

theorem argWord_eq (s : State) : argWord s = s.argOffset.setWidth 32 ||| (s.argLength.setWidth 32 <<< 8) := by
  calc argWord s = (0#16 ++ s.argLength ++ s.argOffset).setWidth 32 := (BitVec.setWidth_eq _).symm
    _ = _ := by rw [BitVec.setWidth_append_append_eq_shiftLeft_setWidth_or]; simp [BitVec.or_comm]

theorem tlmFieldsWord_eq (s : State) : tlmFieldsWord s =
    s.tlmMode.setWidth 32 ||| (s.tlmColor.setWidth 32 <<< 8) ||| (s.tlmSpeed.setWidth 32 <<< 16) := by
  calc tlmFieldsWord s = (0#8 ++ s.tlmSpeed ++ s.tlmColor ++ s.tlmMode).setWidth 32 := (BitVec.setWidth_eq _).symm
    _ = _ := by
      rw [BitVec.setWidth_append_append_append_eq_shiftLeft_setWidth_or]
      simp [BitVec.or_comm, BitVec.or_assoc]

/-- A bit of a word, read off the word as a number. -/
theorem getLsbD_of_div_mod {w : Word} {k : Nat} {b : Bool} (h : w.toNat / 2 ^ k % 2 = b.toNat) : w.getLsbD k = b := by
  rw [BitVec.getLsbD, Nat.testBit_eq_decide_div_mod_eq, h]
  cases b <;> rfl

/-- The fields of STATUS at their places, its reserved bits 0 (R22, R24). -/
theorem statusWord_fields (s : State) :
    (statusWord s).toNat / 2 ^ 0 % 2 = s.busy.toNat ∧ (statusWord s).toNat / 2 ^ 1 % 2 = s.done.toNat ∧
    (statusWord s).toNat / 2 ^ 2 % 2 = s.frameValid.toNat ∧ (statusWord s).toNat / 2 ^ 3 % 2 = s.wrIgn.toNat ∧
    (statusWord s).toNat / 16 % 16 = 0 ∧ (statusWord s).toNat / 256 % 16 = (resultCode s.result).toNat ∧
    (statusWord s).toNat / 4096 % 16 = (seqCode s.seq).toNat ∧ (statusWord s).toNat / 65536 = 0 := by
  have hseq := (seqCode s.seq).isLt
  have hresult := (resultCode s.result).isLt
  have hignored := s.wrIgn.toNat_le
  have hvalid := s.frameValid.toNat_le
  have hdone := s.done.toNat_le
  have hbusy := s.busy.toNat_le
  rw [toNat_statusWord]
  omega

/-- The fields of HANDOFF at their places, its reserved bits 0 (R22, R37). -/
theorem handoffWord_fields (s : State) :
    (handoffWord s).toNat / 2 ^ 0 % 2 = s.ready.toNat ∧ (handoffWord s).toNat / 2 ^ 1 % 2 = s.cdone.toNat ∧
    (handoffWord s).toNat / 4 = 0 := by
  have hcdone := s.cdone.toNat_le
  have hready := s.ready.toNat_le
  rw [toNat_handoffWord]
  omega

/-- Settles O44: a 32-bit read of a register offset answers the register's word, and each word has its fields. -/
theorem registerWordFields : Obligations.RegisterWordFields := by
  intro s
  obtain ⟨hbusy, hdone, hvalid, hignored, hlow, hresult, hseq, hhigh⟩ := statusWord_fields s
  obtain ⟨hready, hcdone, hreserved⟩ := handoffWord_fields s
  refine ⟨⟨statusWord s, rfl, getLsbD_of_div_mod hbusy, getLsbD_of_div_mod hdone, getLsbD_of_div_mod hvalid,
      getLsbD_of_div_mod hignored, hlow, ?_, ?_, hhigh⟩,
    ⟨handoffWord s, rfl, getLsbD_of_div_mod hready, getLsbD_of_div_mod hcdone, hreserved⟩, rfl,
    congrArg some (argWord_eq s), congrArg some (byteWord_eq _), congrArg some (byteWord_eq _),
    congrArg some (byteWord_eq _), rfl, rfl, congrArg some (tlmFieldsWord_eq s), rfl, rfl, rfl,
    congrArg some (byteWord_eq _)⟩
  · rw [hresult]
    cases s.result <;> rfl
  · rw [hseq]
    cases s.seq <;> rfl

/-! ### Read-only and reserved offsets (R22, R39, R65, R66) -/

/-- The registers that a host write can reach (R22, R64). -/
def writableOffsets : List Nat :=
  [offCmd, offStatus, offArg, offRxLen, offCmdPitch, offCmdYaw, offCmdDistance, offHandoff]

theorem writeRegister_readOnly {a : Nat} (v : Word) (s : State) (h : a ∉ writableOffsets) :
    writeRegister a v s = s := by
  simp only [writableOffsets, List.mem_cons, List.not_mem_nil, or_false, not_or] at h
  obtain ⟨hcmd, hstatus, harg, hrxLen, hpitch, hyaw, hdistance, hhandoff⟩ := h
  simp [writeRegister, busyLocked, *]

/-- A write to a read-only register or to a reserved register offset changes nothing (R22, R39, R64). -/
theorem memWrite_readOnly (s : State) {a : Nat} (v : Word) (h4 : a % 4 = 0)
    (ha : a ∈ [0x010, 0x014, 0x018, 0x01C, 0x020, 0x034] ∨ (0x038 ≤ a ∧ a < 0x100)) : memWrite s a 4 v = some s := by
  have hregisters : ∀ a ∈ [0x010, 0x014, 0x018, 0x01C, 0x020, 0x034], a < 0x100 ∧ a ∉ writableOffsets := by decide
  have hwritable : ∀ a ∈ writableOffsets, a < 0x038 := by decide
  obtain ⟨hlt, hro⟩ : a < 0x100 ∧ a ∉ writableOffsets := by
    obtain hmem | ⟨hlo, hhi⟩ := ha
    · exact hregisters a hmem
    · exact ⟨hhi, fun hmem => absurd (hwritable a hmem) (by omega)⟩
  rw [memWrite_register s v h4 hlt, writeRegister_readOnly v s hro]

/-- Every offset above the last register reads 0 (R39). -/
theorem readRegister_reserved (s : State) {a : Nat} (h : 0x038 ≤ a) : readRegister s a = 0#32 := by
  have hne : ∀ k, k < 0x038 → a ≠ k := fun k hk => by omega
  simp [readRegister, hne, offCmd, offStatus, offArg, offRxLen, offCrcResult, offFrameOffset, offTlmGainYaw,
    offTlmGainPitch, offTlmFields, offCmdPitch, offCmdYaw, offCmdDistance, offHandoff, offTxLen]

/-- A write outside the RX window changes nothing (R65, R66; log 15). -/
theorem writeWindow_of_not_rx {a : Nat} (n : Nat) (v : Word) (s : State) (h : isRx a = false) :
    writeWindow a n v s = s := by
  simp [writeWindow, h]

/-- An offset that holds no stored byte reads 0 (R65, R66). -/
theorem regionByte_reserved (s : State) {a : Nat} (h : isBuffer a = false) : regionByte s a = 0#8 := by
  simp [regionByte, h]

theorem isRx_above {a : Nat} (h : 0x1FF ≤ a) : isRx a = false := isRx_eq_false_iff.2 (.inr h)

theorem isBuffer_above {a : Nat} (h : 0x20E ≤ a) : isBuffer a = false := by
  have hrx : isRx a = false := isRx_above (by omega)
  have htx : ¬ a ≤ 0x20D := by omega
  simp [isBuffer, isTx, hrx, htx]

/-- Settles O46: below 0x100 no writable register is named, and from 0x1FF on there is no RX byte. -/
theorem readOnlyAndReservedOffsetsIgnoreWrites : Obligations.ReadOnlyAndReservedOffsetsIgnoreWrites := by
  refine ⟨fun s a v h4 ha => ?_, fun s a v hlo hhi => ?_, fun s a h4 ha => ?_, fun s a ha => ?_⟩
  · obtain hmem | hreserved | ⟨hlo, hhi⟩ := ha
    · exact memWrite_readOnly s v h4 (.inl hmem)
    · exact memWrite_readOnly s v h4 (.inr hreserved)
    · rw [memWrite_window s v (admitted_word h4 (by omega) hhi) (by omega),
        writeWindow_of_not_rx _ _ _ (isRx_above (by omega))]
  · rw [memWrite_window s v (admitted_byte (by omega) hhi) (by omega), writeWindow_of_not_rx _ _ _ (isRx_above hlo)]
  · obtain ⟨hlo, hhi⟩ | ⟨hlo, hhi⟩ := ha
    · rw [memRead_register s h4 hhi, readRegister_reserved s hlo]
    · have hzero : ∀ x, a ≤ x → regionByte s x = 0#8 := fun x hx => regionByte_reserved s (isBuffer_above (by omega))
      rw [memRead_word s h4 (by omega) hhi, hzero a le_rfl, hzero (a + 1) (by omega), hzero (a + 2) (by omega),
        hzero (a + 3) (by omega)]
      rfl
  · have hbuf : isBuffer a = false := by
      obtain rfl | ⟨hlo, _⟩ := ha
      · rfl
      · exact isBuffer_above hlo
    rw [memRead_byte s (by omega) (by omega), regionByte_reserved s hbuf]
    rfl

/-! ### After reset (R46) -/

/-- Right after reset every register word is 0: the fourteen registers, and the reserved offsets as ever (R39, R46). -/
theorem readRegister_reset (a : Nat) : readRegister State.reset a = 0#32 := by
  have hregisters : ∀ a < 0x038, readRegister State.reset a = 0#32 := by decide
  by_cases h : a < 0x038
  · exact hregisters a h
  · exact readRegister_reserved _ (by omega)

/-- A reset event leaves the registers of `State.reset` (R240). -/
theorem readRegister_resetEvent (s : State) (a : Nat) : readRegister (resetEvent s) a = 0#32 := readRegister_reset a

/-- Settles O50: the reset event gives every register its value of R46, and `State.reset` holds the same registers. -/
theorem resetClearsEveryRegister : Obligations.ResetClearsEveryRegister := by
  refine ⟨fun a h4 h => ?_, fun s hn => ⟨resetEvent (takeTurn s), ?_, fun a h4 h => ?_, rfl, rfl, rfl, rfl⟩⟩
  · rw [memRead_register _ h4 h, readRegister_reset]
  · rw [step_eq, hn]
    rfl
  · rw [memRead_register _ h4 h, readRegister_resetEvent]

end Sys2Proof.Machine
end

section
/-! The bytes that an operation's step stores (20_memory.md R71): TX in an encode step (R127, R189), RX in a read step
(R183, R187), none in any other. -/

namespace Sys2Proof.Machine

/-- Memory after each of the operations' steps: as before, with the frame of the shadow command stored from TX[0] on,
or with the read's bytes stored from RX[0] on. -/
theorem execEffect_mem {i : Instr} {s t : State} (ht : ExecEffect s i t) :
    t.mem = s.mem ∨
    ((i = .encode ∨ (i = .cycle ∧ s.seq = .encode)) ∧
      t.mem = memStoreList s.mem 0x200 (encodeCommand s.shadowPitch s.shadowYaw s.shadowDistance)) ∨
    ((i = .rxRead ∨ (i = .cycle ∧ s.seq = .read)) ∧
      ∃ bs, readAnswer s = .bytes bs ∧ t.mem = memStoreList s.mem 0x100 bs) := by
  cases ht with
  | nop _ => exact .inl rfl
  | crc8 _ => obtain ⟨_, ht⟩ | ⟨_, ht⟩ := crc8Step_cases s <;> exact .inl (by simp [ht])
  | decode _ => obtain ht | ⟨_, _, ht⟩ | ⟨_, _, ht⟩ := decodeStep_cases s <;> exact .inl (by simp [ht])
  | scan _ => exact .inl (scanCommit_mem s)
  | encode _ => exact .inr (.inl ⟨.inl rfl, encodeShadow_mem s⟩)
  | rxRead _ =>
    obtain ⟨_, ht⟩ | ⟨bs, hbs, ht⟩ := rxReadStep_cases s
    · exact .inl (by simp [ht])
    · exact .inr (.inr ⟨.inl rfl, bs, hbs, by simp [ht]⟩)
  | txWrite _ => obtain ⟨_, ht⟩ | ⟨_, _, ht⟩ | ⟨_, _, ht⟩ := txWriteStep_cases s <;> exact .inl (by simp [ht])
  | cycleGate _ => obtain ⟨_, ht⟩ | ⟨_, ht⟩ := cycleGate_cases s <;> exact .inl (by simp [ht])
  | cycleRead hs =>
    obtain ⟨_, ht⟩ | ⟨bs, hbs, ht⟩ := cycleRead_cases s
    · exact .inl (by simp [ht])
    · exact .inr (.inr ⟨.inr ⟨rfl, hs⟩, bs, hbs, by simp [ht]⟩)
  | cycleScan _ => exact .inl (cycleScan_mem s)
  | cycleEncode hs => exact .inr (.inl ⟨.inr ⟨rfl, hs⟩, cycleEncode_mem s⟩)
  | cycleWrite _ => obtain ⟨_, ht⟩ | ⟨_, ht⟩ := cycleWrite_cases s <;> exact .inl (by simp [ht])

/-- A byte outside the span of consecutive stores reads as before. -/
theorem regionByte_outside_stores {s t : State} {a x : Nat} {bs : List Byte} (hm : t.mem = memStoreList s.mem a bs)
    (hr : t.resets = s.resets) (hx : ¬ (a ≤ x ∧ x < a + bs.length)) : regionByte t x = regionByte s x := by
  rw [regionByte_memStoreList x hm hr, if_neg fun h => hx h.2]

/-- Settles O37: the stores of `execEffect_mem` lie in the spans that the statement leaves out. -/
theorem operationsKeepOtherBytes : Obligations.OperationsKeepOtherBytes := by
  intro i s t h a htx hrx
  obtain ⟨⟨-, -, -, -, -, -, -, hresets, -⟩, -⟩ := operationsKeepOtherRegisters i s t h
  obtain hm | ⟨hi, hm⟩ | ⟨hi, bs, hbs, hm⟩ := execEffect_mem (exec_effect h)
  · exact regionByte_of_mem hm hresets a
  · exact regionByte_outside_stores hm hresets (by rw [length_encodeCommand]; exact htx hi)
  · exact regionByte_outside_stores hm hresets (hrx hi bs hbs)

end Sys2Proof.Machine
end

section
/-! DONE (00_scope.md R14, 20_memory.md R73): only `complete` raises it. -/

namespace Sys2Proof.Machine

/-- A host write only clears DONE: STATUS bit 1 (R24) and an acceptance (R180). -/
theorem writeEffect_done {a n : Nat} {v : Word} {s t : State} (hw : WriteEffect a n v s t) (h : t.done = true) :
    s.done = true := by
  cases hw with
  | accepted _ _ _ => simp at h
  | status _ _ =>
    rw [writeStatus_done, Bool.and_eq_true] at h
    exact h.1
  | _ => exact h

theorem hostEffect_done {s t : State} (ht : HostEffect s t) (h : t.done = true) : s.done = true := by
  cases ht with
  | own _ => exact h
  | write _ _ _ _ hw _ => exact writeEffect_done hw h

/-- An operation's step ends the operation or leaves DONE as it is. -/
theorem execEffect_completes_or_keeps_done {i : Instr} {s t : State} (ht : ExecEffect s i t) :
    (∃ c u, t = complete c u) ∨ t.done = s.done := by
  cases ht with
  | nop _ => exact .inl ⟨_, _, rfl⟩
  | crc8 _ => obtain ⟨_, ht⟩ | ⟨_, ht⟩ := crc8Step_cases s <;> exact .inl ⟨_, _, ht⟩
  | decode _ => obtain ht | ⟨_, _, ht⟩ | ⟨_, _, ht⟩ := decodeStep_cases s <;> exact .inl ⟨_, _, ht⟩
  | scan _ => exact .inl ⟨_, _, rfl⟩
  | encode _ => exact .inl ⟨_, _, rfl⟩
  | rxRead _ => obtain ⟨_, ht⟩ | ⟨_, _, ht⟩ := rxReadStep_cases s <;> exact .inl ⟨_, _, ht⟩
  | txWrite _ => obtain ⟨_, ht⟩ | ⟨_, _, ht⟩ | ⟨_, _, ht⟩ := txWriteStep_cases s <;> exact .inl ⟨_, _, ht⟩
  | cycleGate _ => obtain ⟨_, ht⟩ | ⟨_, ht⟩ := cycleGate_cases s <;> exact .inr (by simp [ht])
  | cycleRead _ =>
    obtain ⟨_, ht⟩ | ⟨_, _, ht⟩ := cycleRead_cases s
    · exact .inl ⟨_, _, ht⟩
    · exact .inr (by simp [ht])
  | cycleScan _ => exact .inr (cycleScan_done s)
  | cycleEncode _ => exact .inr (cycleEncode_done s)
  | cycleWrite _ => obtain ⟨_, ht⟩ | ⟨_, ht⟩ := cycleWrite_cases s <;> exact .inl ⟨_, _, ht⟩

theorem engineEffect_done_rises {s t : State} (ht : EngineEffect s t) (hs : s.done = false) (h : t.done = true) :
    s.busy = true ∧ t.busy = false ∧ t.seq = .idle := by
  cases ht with
  | idle _ => exact absurd h (by simp [hs])
  | operation hb _ _ _ ht =>
    obtain ⟨_, _, rfl⟩ | hkept := execEffect_completes_or_keeps_done ht
    · exact ⟨hb, rfl, rfl⟩
    · exact absurd (hkept.symm.trans h) (by simp [hs])
  | illegal hb _ _ _ => exact ⟨hb, rfl, rfl⟩

/-- Settles O59: a host step and a reset only clear DONE, and an engine step that raises it is an operation's end. -/
theorem doneRisesWithCompletion : Obligations.DoneRisesWithCompletion := by
  intro s t hstep hs h
  cases step_effect hstep with
  | host _ _ ht => exact absurd (hostEffect_done ht h) (by simp [takeTurn, hs])
  | engine hn _ ht => exact ⟨hn, engineEffect_done_rises (s := takeTurn s) ht hs h⟩
  | reset _ => cases h

end Sys2Proof.Machine
end

section
/-! Which accesses the host's bus answers (20_memory.md R60-R62). -/

namespace Sys2Proof.Machine

/-- The access forms of R61. -/
theorem admitted_iff {a n : Nat} : admitted a n = true ↔
    (n = 4 ∧ a % 4 = 0 ∧ a < 0x400) ∨ (n = 1 ∧ 0x100 ≤ a ∧ a < 0x400) := by
  unfold admitted
  split_ifs
  · simp only [Bool.and_eq_true, beq_iff_eq]
    omega
  · simp only [Bool.or_eq_true, Bool.and_eq_true, beq_iff_eq]
    omega
  · exact iff_of_false id (by omega)

theorem memRead_isSome (s : State) (a n : Nat) : (memRead s a n).isSome = admitted a n := by
  unfold memRead
  cases h : admitted a n with
  | false => rfl
  | true =>
    rw [if_pos rfl]
    split_ifs <;> rfl

theorem memWrite_isSome (s : State) (a n : Nat) (v : Word) : (memWrite s a n v).isSome = admitted a n := by
  unfold memWrite
  cases h : admitted a n with
  | false => rfl
  | true =>
    rw [if_pos rfl]
    split_ifs <;> rfl

/-- Settles O39: reads and writes alike are answered when `admitted` says so. -/
theorem onlyAdmittedAccessesAreAnswered : Obligations.OnlyAdmittedAccessesAreAnswered := by
  intro s a n v
  rw [memRead_isSome, memWrite_isSome]
  exact ⟨admitted_iff, admitted_iff⟩

theorem exists_memRead {a n : Nat} (h : admitted a n = true) (s : State) : ∃ v, memRead s a n = some v :=
  Option.isSome_iff_exists.1 ((memRead_isSome s a n).trans h)

theorem exists_memWrite {a n : Nat} (h : admitted a n = true) (s : State) (v : Word) : ∃ t, memWrite s a n v = some t :=
  Option.isSome_iff_exists.1 ((memWrite_isSome s a n v).trans h)

theorem memRead_busError {a n : Nat} (h : admitted a n = false) (s : State) : memRead s a n = none :=
  Option.not_isSome_iff_eq_none.1 (by simp [memRead_isSome, h])

theorem memWrite_busError {a n : Nat} (h : admitted a n = false) (s : State) (v : Word) : memWrite s a n v = none :=
  Option.not_isSome_iff_eq_none.1 (by simp [memWrite_isSome, h])

/-- Settles O49: the platform's address less BLOCK_BASE is the block's offset again. -/
theorem blockBaseIsAddedToEveryOffset : Obligations.BlockBaseIsAddedToEveryOffset := by
  intro s a n v
  have hle : Config.blockBase ≤ Config.blockBase + a := Nat.le_add_right ..
  have hoff : Config.blockBase + a - Config.blockBase = a := Nat.add_sub_cancel_left ..
  exact ⟨by rw [busRead, if_pos hle, hoff], by rw [busWrite, if_pos hle, hoff]⟩

end Sys2Proof.Machine
end

section
/-! The host's statements (30_encoding.md R90): which of them stop the run, and what the others answer. -/

namespace Sys2Proof.Machine

theorem step_host {s : State} (hn : nextTurn s = .host) : step s = hostStep (takeTurn s) := by
  rw [step_eq, hn]
  rfl

theorem hostStep_at {s : State} {st : HostStmt} (h : s.host.prog[s.host.pc]? = some st) :
    hostStep s = hostStmt st s := by
  rw [hostStep, h]

/-! ### An access that is not admitted (R62) -/

section
variable {a n : Nat}

theorem hostRead_busError (h : admitted a n = false) (s : State) : hostRead a n s = .fault .busError := by
  rw [hostRead, memRead_busError h]

theorem hostWrite_busError (h : admitted a n = false) (v : Word) (s : State) :
    hostWrite a n v s = .fault .busError := by
  rw [hostWrite, memWrite_busError h]

theorem hostBranch_busError (h : admitted a 4 = false) (m : Word) (f : Word → Bool) (l : Nat) (s : State) :
    hostBranch a m f l s = .fault .busError := by
  rw [hostBranch, memRead_busError h]

/-- Every statement that makes an access makes it first (R90). -/
theorem hostStmt_busError {st : HostStmt} (hacc : st.access? = some (a, n)) (h : admitted a n = false) (s : State) :
    hostStmt st s = .fault .busError := by
  cases st <;> cases hacc
  case wr32 => exact hostWrite_busError h _ s
  case wr8 => exact hostWrite_busError h _ s
  case rd32 => exact hostRead_busError h s
  case rd8 => exact hostRead_busError h s
  case brne =>
    rw [hostStmt]
    exact hostBranch_busError h _ _ _ s
  case breq =>
    rw [hostStmt]
    exact hostBranch_busError h _ _ _ s

end

/-- Settles O40: the host's turn runs the statement, and its access comes first. -/
theorem busErrorFaultsTheHost : Obligations.BusErrorFaultsTheHost := by
  intro s st a n hn hst hacc hadm
  rw [step_host hn, hostStep_at (s := takeTurn s) hst, hostStmt_busError hacc hadm]

/-! ### An admitted access -/

theorem hostRead_next {a n : Nat} (h : admitted a n = true) (s : State) :
    ∃ v, memRead s a n = some v ∧ hostRead a n s = .next (hostNext (setT v s)) := by
  obtain ⟨v, hv⟩ := exists_memRead h s
  exact ⟨v, hv, by rw [hostRead, hv]⟩

theorem hostWrite_next {a n : Nat} (h : admitted a n = true) (v : Word) (s : State) :
    ∃ t, memWrite s a n v = some t ∧ hostWrite a n v s = .next (hostNext t) := by
  obtain ⟨t, ht⟩ := exists_memWrite h s v
  exact ⟨t, ht, by rw [hostWrite, ht]⟩

/-- Settles O42: both statements are `hostRead`, at their widths. -/
theorem hostReadsHaveNoSideEffects : Obligations.HostReadsHaveNoSideEffects :=
  fun s _ => ⟨fun h => hostRead_next h s, fun h => hostRead_next h s⟩

/-- A host write reaches nothing of the host's own. -/
theorem writeEffect_host {a n : Nat} {v : Word} {s t : State} (hw : WriteEffect a n v s t) : t.host = s.host := by
  cases hw <;> rfl

/-- A branch to a label of the program goes on, there or at the next statement. -/
theorem hostBranch_next {a l : Nat} {s : State} (h : admitted a 4 = true)
    (hl : (findLabel l s.host.prog).isSome = true) (m : Word) (f : Word → Bool) :
    ∃ t, hostBranch a m f l s = .next t ∧ t.host.prog = s.host.prog := by
  obtain ⟨x, hx⟩ := exists_memRead h s
  obtain ⟨k, hk⟩ := Option.isSome_iff_exists.1 hl
  rw [hostBranch, hx]
  cases hf : f (x &&& m) with
  | false => exact ⟨hostNext (setT x s), by simp [hf], rfl⟩
  | true => exact ⟨{ s with host := { s.host with pc := k, t := x } }, by simp [hf, hostGoto, hk, setT], rfl⟩

/-! ### Well-formed statements (R61, R90) -/

section
variable {prog : List HostStmt} {st : HostStmt} (h : st.wf prog = true)
include h

theorem HostStmt.admitted_of_wf {a n : Nat} (hacc : st.access? = some (a, n)) : admitted a n = true := by
  unfold HostStmt.wf at h
  rw [Bool.and_eq_true, Bool.and_eq_true] at h
  obtain ⟨⟨hadm, -⟩, -⟩ := h
  rwa [hacc] at hadm

theorem HostStmt.findLabel_of_wf {l : Nat} (hl : st.target? = some l) : (findLabel l prog).isSome = true := by
  unfold HostStmt.wf at h
  rw [Bool.and_eq_true, Bool.and_eq_true] at h
  obtain ⟨-, hlabel⟩ := h
  rwa [hl] at hlabel

end

theorem hostStmt_next_of_wf {s : State} {st : HostStmt} (h : st.wf s.host.prog = true) :
    ∃ t, hostStmt st s = .next t ∧ t.host.prog = s.host.prog := by
  have hread {a n : Nat} (hacc : st.access? = some (a, n)) :
      ∃ t, hostRead a n s = .next t ∧ t.host.prog = s.host.prog := by
    obtain ⟨v, -, ht⟩ := hostRead_next (HostStmt.admitted_of_wf h hacc) s
    exact ⟨_, ht, rfl⟩
  have hwrite {a n : Nat} (hacc : st.access? = some (a, n)) (v : Word) :
      ∃ t, hostWrite a n v s = .next t ∧ t.host.prog = s.host.prog := by
    obtain ⟨t, hw, ht⟩ := hostWrite_next (HostStmt.admitted_of_wf h hacc) v s
    exact ⟨_, ht, by rw [hostNext_host, writeEffect_host (memWrite_effect hw)]⟩
  cases st with
  | wr32 _ v => exact hwrite rfl v
  | wr8 _ v => exact hwrite rfl v
  | rd32 _ => exact hread rfl
  | rd8 _ => exact hread rfl
  | brne _ _ _ _ =>
    rw [hostStmt]
    exact hostBranch_next (HostStmt.admitted_of_wf h rfl) (HostStmt.findLabel_of_wf h rfl) _ _
  | breq _ _ _ _ =>
    rw [hostStmt]
    exact hostBranch_next (HostStmt.admitted_of_wf h rfl) (HostStmt.findLabel_of_wf h rfl) _ _
  | label _ => exact ⟨_, rfl, rfl⟩
  | halt => exact ⟨s, rfl, rfl⟩

/-- Settles O41: the statement that the host is at is one of the program's, all well-formed. -/
theorem wellFormedHostProgramNeverFaults : Obligations.WellFormedHostProgramNeverFaults := by
  intro s hwf
  cases hst : s.host.prog[s.host.pc]? with
  | none => exact ⟨s, by rw [hostStep, hst], rfl⟩
  | some st =>
    rw [hostStep_at hst]
    exact hostStmt_next_of_wf (List.all_eq_true.1 hwf st (List.mem_of_getElem? hst))

end Sys2Proof.Machine
end

section
/-! What can stop a run (20_memory.md R62, 43_session.md R181; logs 9, 10, 12). -/

namespace Sys2Proof.Machine

/-- What a step of the host can answer: a next state, or one of the host's two faults (logs 10, 12). -/
inductive HostAnswer : Host.Outcome State Fault Refusal → Prop where
  | next (t : State) : HostAnswer (.next t)
  | busError : HostAnswer (.fault .busError)
  | undefinedLabel : HostAnswer (.fault .undefinedLabel)

theorem HostAnswer.fault {r : Fault} (h : HostAnswer (.fault r)) : r = .busError ∨ r = .undefinedLabel := by
  cases h
  · exact .inl rfl
  · exact .inr rfl

theorem not_hostAnswer_refused (r : Refusal) : ¬ HostAnswer (.refused r) := nofun

theorem hostRead_answer (a n : Nat) (s : State) : HostAnswer (hostRead a n s) := by
  unfold hostRead
  split
  · exact .next _
  · exact .busError

theorem hostWrite_answer (a n : Nat) (v : Word) (s : State) : HostAnswer (hostWrite a n v s) := by
  unfold hostWrite
  split
  · exact .next _
  · exact .busError

theorem hostGoto_answer (l : Nat) (s : State) : HostAnswer (hostGoto l s) := by
  unfold hostGoto
  split
  · exact .next _
  · exact .undefinedLabel

theorem hostBranch_answer (a : Nat) (m : Word) (f : Word → Bool) (l : Nat) (s : State) :
    HostAnswer (hostBranch a m f l s) := by
  unfold hostBranch
  split
  · split
    · exact hostGoto_answer ..
    · exact .next _
  · exact .busError

theorem hostStmt_answer (st : HostStmt) (s : State) : HostAnswer (hostStmt st s) := by
  cases st with
  | wr32 _ _ => exact hostWrite_answer ..
  | wr8 _ _ => exact hostWrite_answer ..
  | rd32 _ => exact hostRead_answer ..
  | rd8 _ => exact hostRead_answer ..
  | brne _ _ _ _ =>
    rw [hostStmt]
    exact hostBranch_answer ..
  | breq _ _ _ _ =>
    rw [hostStmt]
    exact hostBranch_answer ..
  | label _ => exact .next _
  | halt => exact .next _

theorem hostStep_answer (s : State) : HostAnswer (hostStep s) := by
  unfold hostStep
  split
  · exact hostStmt_answer ..
  · exact .next _

/-- Each pair of R181 has an engine step. -/
theorem exec_next_of_pair {s : State} : ∀ {q : SeqState} {i : Instr}, pairOccurs q (.ok i) = true → s.seq = q →
    ∃ t, exec i s = .next t
  | .exec, .nop, _, hs => ⟨_, exec_nop_next hs⟩
  | .exec, .crc8, _, hs => ⟨_, exec_crc8_next hs⟩
  | .exec, .decode, _, hs => ⟨_, exec_decode_next hs⟩
  | .exec, .scan, _, hs => ⟨_, exec_scan_next hs⟩
  | .exec, .encode, _, hs => ⟨_, exec_encode_next hs⟩
  | .read, .rxRead, _, hs => ⟨_, exec_rxRead_next hs⟩
  | .write, .txWrite, _, hs => ⟨_, exec_txWrite_next hs⟩
  | .waitReady, .cycle, _, hs => ⟨_, exec_cycleGate_next hs⟩
  | .read, .cycle, _, hs => ⟨_, exec_cycleRead_next hs⟩
  | .scan, .cycle, _, hs => ⟨_, exec_cycleScan_next hs⟩
  | .encode, .cycle, _, hs => ⟨_, exec_cycleEncode_next hs⟩
  | .write, .cycle, _, hs => ⟨_, exec_cycleWrite_next hs⟩

/-- An illegal word's one pair of R181 is EXEC. -/
theorem seq_of_pairOccurs_error {e : DecodeError} : ∀ {q : SeqState}, pairOccurs q (.error e) = true → q = .exec
  | .exec, _ => rfl

/-- The invariant rules out the pairs that have no engine step (log 9). -/
theorem engineStep_next_of_inv {s : State} (h : Inv s) : ∃ t, engineStep s = .next t := by
  cases hb : s.busy with
  | false => exact ⟨s, by simp [engineStep, hb]⟩
  | true =>
    have hpair := (h.inProgress hb).pair
    cases hop : decodeOp s.cmd with
    | ok i =>
      rw [engineStep_operation hb hop]
      exact exec_next_of_pair (hop ▸ hpair) rfl
    | error e =>
      have hs : s.seq = .exec := seq_of_pairOccurs_error (hop ▸ hpair)
      exact ⟨complete .illegalOp s, by simp [engineStep, hb, hop, illegalWord, hs]⟩

/-- Settles O53: the host's step has its two faults, and the engine's and the reset's steps have a next state. -/
theorem onlyTheHostCanFault : Obligations.OnlyTheHostCanFault := by
  intro s h
  rw [step_eq]
  cases hn : nextTurn s with
  | host =>
    have hans : HostAnswer (agentStep .host (takeTurn s)) := hostStep_answer _
    exact ⟨fun r hr => ⟨rfl, (hr ▸ hans).fault⟩, fun r hr => not_hostAnswer_refused r (hr ▸ hans)⟩
  | engine =>
    obtain ⟨t, ht⟩ := engineStep_next_of_inv (s := takeTurn s) h
    simp [agentStep, ht]
  | reset => simp [agentStep]

end Sys2Proof.Machine
end

section
/-! Register writes (20_memory.md R64) and the words read back after them (10_state.md R24, R27, R28, R34-R37). -/

namespace Sys2Proof.Machine

/-! ### Words bit by bit -/

/-- A word below `2 ^ k` has no 1 at bit `k` or above. -/
theorem getLsbD_above {w : Word} {k : Nat} (h : w.toNat < 2 ^ k) (i : Nat) : w.getLsbD (i + k) = false :=
  Nat.testBit_lt_two_pow (h.trans_le (Nat.pow_le_pow_right (by decide) (by omega)))

/-- STATUS bits 3 to 0 (R24). -/
theorem getLsbD_statusWord_flags (s : State) :
    (statusWord s).getLsbD 0 = s.busy ∧ (statusWord s).getLsbD 1 = s.done ∧
    (statusWord s).getLsbD 2 = s.frameValid ∧ (statusWord s).getLsbD 3 = s.wrIgn := by
  obtain ⟨hbusy, hdone, hvalid, hignored, -⟩ := statusWord_fields s
  exact ⟨getLsbD_of_div_mod hbusy, getLsbD_of_div_mod hdone, getLsbD_of_div_mod hvalid, getLsbD_of_div_mod hignored⟩

/-- STATUS above its flags: STATE and RESULT (R24). -/
theorem getLsbD_statusWord_high (s : State) (i : Nat) :
    (statusWord s).getLsbD (i + 4) = (0#16 ++ seqCode s.seq ++ resultCode s.result ++ 0#4).getLsbD i := by
  simp only [statusWord, BitVec.getLsbD_append]
  simp

/-- HANDOFF bits 1 and 0 (R37). -/
theorem getLsbD_handoffWord_flags (s : State) :
    (handoffWord s).getLsbD 0 = s.ready ∧ (handoffWord s).getLsbD 1 = s.cdone := by
  obtain ⟨hready, hcdone, -⟩ := handoffWord_fields s
  exact ⟨getLsbD_of_div_mod hready, getLsbD_of_div_mod hcdone⟩

theorem getLsbD_handoffWord_high (s : State) (i : Nat) : (handoffWord s).getLsbD (i + 2) = false := by
  obtain ⟨-, -, hhigh⟩ := handoffWord_fields s
  exact getLsbD_above (by omega) i

/-! ### The words after a write -/

/-- STATUS after a host write: bits 1 and 3 of the datum clear theirs (R24, R64). -/
theorem statusWord_writeStatus (v : Word) (s : State) :
    statusWord (writeStatus v s) = statusWord s &&& ~~~(v &&& 0xA#32) := by
  obtain ⟨hbusy, hdone, hvalid, hignored⟩ := getLsbD_statusWord_flags s
  obtain ⟨hbusy', hdone', hvalid', hignored'⟩ := getLsbD_statusWord_flags (writeStatus v s)
  refine BitVec.eq_of_getLsbD_eq fun i hi => ?_
  rw [BitVec.getLsbD_and, BitVec.getLsbD_not, BitVec.getLsbD_and]
  match i, hi with
  | 0, _ => rw [hbusy, hbusy']; simp
  | 1, _ => rw [hdone, hdone']; simp
  | 2, _ => rw [hvalid, hvalid']; simp
  | 3, _ => rw [hignored, hignored']; simp
  | n + 4, hn =>
    rw [getLsbD_statusWord_high, getLsbD_statusWord_high, getLsbD_above (w := 0xA#32) (by decide)]
    simp [hn]

/-- HANDOFF after a host write: bit 0 of the datum sets READY and bit 1 clears CDONE (R37, R64). -/
theorem handoffWord_writeHandoff (v : Word) (s : State) :
    handoffWord (writeHandoff v s) = (handoffWord s ||| (v &&& 0x1#32)) &&& ~~~(v &&& 0x2#32) := by
  obtain ⟨hready, hcdone⟩ := getLsbD_handoffWord_flags s
  obtain ⟨hready', hcdone'⟩ := getLsbD_handoffWord_flags (writeHandoff v s)
  refine BitVec.eq_of_getLsbD_eq fun i hi => ?_
  rw [BitVec.getLsbD_and, BitVec.getLsbD_or, BitVec.getLsbD_not, BitVec.getLsbD_and, BitVec.getLsbD_and]
  match i, hi with
  | 0, _ => rw [hready, hready']; simp
  | 1, _ => rw [hcdone, hcdone']; simp
  | n + 2, _ =>
    rw [getLsbD_handoffWord_high, getLsbD_handoffWord_high, getLsbD_above (w := 0x1#32) (by decide)]
    simp

/-- The byte that RX_LEN stores of a datum, as the word read back (R28, R48). -/
theorem byteWord_low (v : Word) : byteWord (v.extractLsb' 0 8) = v &&& 0xFF#32 := by
  apply BitVec.eq_of_toNat_eq
  have hmask : v.toNat &&& (0xFF#32).toNat = v.toNat % 2 ^ 8 := Nat.and_two_pow_sub_one_eq_mod v.toNat 8
  rw [byteWord_eq, BitVec.toNat_and, hmask, BitVec.toNat_setWidth_of_le (by decide), BitVec.extractLsb'_toNat,
    Nat.shiftRight_zero]

/-- The two bytes that ARG stores of a datum, as the word read back (R27, R48). -/
theorem argWord_low (v : Word) : 0#16 ++ v.extractLsb' 8 8 ++ v.extractLsb' 0 8 = v &&& 0xFFFF#32 := by
  apply BitVec.eq_of_toNat_eq
  have hmask : v.toNat &&& (0xFFFF#32).toNat = v.toNat % 2 ^ 16 := Nat.and_two_pow_sub_one_eq_mod v.toNat 16
  rw [BitVec.toNat_and, hmask]
  simp only [toNat_append_eq, BitVec.extractLsb'_toNat, BitVec.toNat_ofNat, Nat.shiftRight_eq_div_pow]
  omega

theorem writeRegister_arg {s : State} (hb : s.busy = false) (v : Word) : writeRegister offArg v s =
    { s with argOffset := v.extractLsb' 0 8, argLength := v.extractLsb' 8 8 } := by
  simp [writeRegister, hb, offArg, offCmd, offStatus]

theorem writeRegister_rxLen {s : State} (hb : s.busy = false) (v : Word) :
    writeRegister offRxLen v s = { s with rxLen := v.extractLsb' 0 8 } := by
  simp [writeRegister, hb, offRxLen, offArg, offCmd, offStatus]

/-- Settles O45: each write stores the datum in its own register, and the word read back is the one of that
register. -/
theorem registerWritesReadBack : Obligations.RegisterWritesReadBack := by
  intro s v
  refine ⟨fun hb => ⟨_, congrArg some (writeRegister_arg hb v), congrArg some (argWord_low v), rfl⟩,
    fun hb => ⟨_, congrArg some (writeRegister_rxLen hb v), congrArg some (byteWord_low v), rfl⟩,
    ⟨_, rfl, rfl, rfl⟩, ⟨_, rfl, rfl, rfl⟩, ⟨_, rfl, rfl, rfl⟩,
    ⟨_, _, rfl, rfl, congrArg some (statusWord_writeStatus v s), rfl⟩,
    ⟨_, _, rfl, rfl, congrArg some (handoffWord_writeHandoff v s), rfl⟩⟩

end Sys2Proof.Machine
end

section
/-! The RX and TX windows as the host reads and writes them (20_memory.md R65-R67). -/

namespace Sys2Proof.Machine

/-! ### Reads -/

/-- The byte above RX[254] is reserved (R65). -/
theorem rxByte_255 (s : State) : rxByte s 255 = 0#8 := regionByte_reserved s rfl

theorem memRead_rx_byte (s : State) {k : Nat} (h : k ≤ 254) :
    memRead s (0x100 + k) 1 = some ((rxByte s k).setWidth 32) := by
  rw [memRead_byte s (by omega) (by omega), byteWord_eq]
  rfl

theorem memRead_rx_word (s : State) {j : Nat} (h : j < 64) : memRead s (0x100 + 4 * j) 4 =
    some (le32 (rxByte s (4 * j)) (rxByte s (4 * j + 1)) (rxByte s (4 * j + 2)) (rxByte s (4 * j + 3))) :=
  memRead_word s (by omega) (by omega) (by omega)

theorem memRead_tx_byte (s : State) {k : Nat} (h : k ≤ 13) :
    memRead s (0x200 + k) 1 = some ((txByte s k).setWidth 32) := by
  rw [memRead_byte s (by omega) (by omega), byteWord_eq]
  rfl

theorem memRead_tx_word (s : State) {j : Nat} (h : j < 4) : memRead s (0x200 + 4 * j) 4 =
    some (le32 (txByte s (4 * j)) (txByte s (4 * j + 1)) (txByte s (4 * j + 2)) (txByte s (4 * j + 3))) :=
  memRead_word s (by omega) (by omega) (by omega)

/-- The two bytes above TX[13] are reserved (R66). -/
theorem txByte_reserved (s : State) {k : Nat} (h : 14 ≤ k) : txByte s k = 0#8 :=
  regionByte_reserved s (isBuffer_above (by omega))

/-! ### Writes to RX -/

/-- A region byte after a host write's stores: an RX byte of the span is the byte written, every other is as before. -/
theorem regionByte_storeRx (a : Nat) (bs : List Byte) (s : State) (x : Nat) : regionByte (storeRx a bs s) x =
    if isRx x = true ∧ a ≤ x ∧ x < a + bs.length then bs.getD (x - a) 0#8 else regionByte s x := by
  obtain ⟨hrest, hlook, -⟩ := storeRx_spec a bs s
  have hresets : (storeRx a bs s).resets = s.resets := by rw [hrest]
  specialize hlook x
  split_ifs at hlook ⊢ with hx
  · have hlt : x - a < bs.length := by omega
    simp [regionByte, bufferByte, isBuffer_of_isRx hx.1, hlook, hlt]
  · exact regionByte_congr x hlook hresets

theorem length_writeBytes {n : Nat} (h : n ≤ 4) (v : Word) : (writeBytes n v).length = n := by
  simp [writeBytes, bytesLe32, h]

/-- Byte `m` of a datum, bits 7:0 first (R67). -/
theorem getD_writeBytes {m n : Nat} (hm : m < n) (hn : n ≤ 4) (v : Word) :
    (writeBytes n v).getD m 0#8 = (v >>> (8 * m)).setWidth 8 := by
  have hbytes : ∀ m < 4, (bytesLe32 v)[m]? = some ((v >>> (8 * m)).setWidth 8)
    | 0, _ => rfl
    | 1, _ => rfl
    | 2, _ => rfl
    | 3, _ => rfl
  rw [writeBytes, List.getD_eq_getElem?_getD, List.getElem?_take_of_lt hm, hbytes m (by omega), Option.getD_some]

/-- An admitted host write to RX while BUSY = 0 (R65): the RX bytes of its span hold the datum's, every other byte and
everything else is as before. -/
theorem memWrite_rx {s : State} {a n : Nat} (hadm : admitted a n = true) (hn : n ≤ 4) (ha : isRx a = true)
    (hb : s.busy = false) (v : Word) : ∃ t, memWrite s a n v = some t ∧
      (∀ m, m < n → isRx (a + m) = true → regionByte t (a + m) = (v >>> (8 * m)).setWidth 8) ∧
      (∀ x, ¬ (a ≤ x ∧ x < a + n) → regionByte t x = regionByte s x) ∧ t = { s with mem := t.mem } := by
  have hlo : 0x100 ≤ a := not_lt.1 fun h => by simp [isRx_eq_false_iff.2 (.inl h)] at ha
  have hbyte := regionByte_storeRx a (writeBytes n v) s
  rw [length_writeBytes hn] at hbyte
  refine ⟨storeRx a (writeBytes n v) s, ?_, fun m hm hrx => ?_, fun x hx => ?_, (storeRx_spec ..).1⟩
  · rw [memWrite_window s v hadm hlo]
    simp [writeWindow, ha, hb]
  · rw [hbyte, if_pos ⟨hrx, by omega, by omega⟩, Nat.add_sub_cancel_left, getD_writeBytes hm hn]
  · rw [hbyte, if_neg fun h => hx h.2]

theorem isRx_index {k : Nat} (h : k ≤ 254) : isRx (0x100 + k) = true := by
  simp only [isRx, Bool.and_eq_true, decide_eq_true_eq]
  omega

/-- Settles O48: the reads give the windows' bytes, reserved ones 0, and the writes are `memWrite_rx` at the two widths. -/
theorem bufferWindowsAreReadAndWritten : Obligations.BufferWindowsAreReadAndWritten := by
  refine ⟨fun s k => memRead_rx_byte s, fun s j hj => ?_, fun s k v hk hb => ?_, fun s j v hj hb => ?_,
    fun s k => memRead_tx_byte s, fun s j hj => memRead_tx_word s (by omega), fun s => ?_⟩
  · have hlast : (if j = 63 then 0#8 else rxByte s (4 * j + 3)) = rxByte s (4 * j + 3) := by
      split
      · next h => rw [h, rxByte_255]
      · rfl
    rw [hlast, memRead_rx_word s hj]
  · obtain ⟨t, hw, hspan, hrest, ht⟩ :=
      memWrite_rx (admitted_byte (by omega) (by omega)) (by decide) (isRx_index hk) hb v
    exact ⟨t, hw, hspan 0 (by decide) (isRx_index hk), fun a ha => hrest a (by omega), ht⟩
  · obtain ⟨t, hw, hspan, hrest, ht⟩ :=
      memWrite_rx (admitted_word (a := 0x100 + 4 * j) (by omega) (by omega) (by omega)) (by decide)
        (isRx_index (by omega)) hb v
    refine ⟨t, hw, fun m hm hk => ?_, hrest, ht⟩
    rw [rxByte, ← Nat.add_assoc]
    exact hspan m hm (by rw [Nat.add_assoc]; exact isRx_index hk)
  · rw [memRead_tx_word s (j := 3) (by decide), txByte_reserved s (k := 14) (by decide),
      txByte_reserved s (k := 15) (by decide)]

end Sys2Proof.Machine
end

section
/-! Legal and illegal command words (30_encoding.md R80-R82): the encoder and the decoder as inverses, the rejected words
by their fields, and what becomes of an illegal word that is written to CMD (43_session.md R180, R191). -/

namespace Sys2Proof.Machine

/-- The decoder reads an operation back from its own word (R80, R81). -/
@[simp] theorem decodeOp_encode (i : Instr) : decodeOp (encode i) = .ok i := by
  cases i <;> rfl

/-- `eq_encode_of_decodeOp` and `decodeOp_encode` in one (R80-R82). -/
theorem decodeOp_eq_ok_iff {w : Word} {i : Instr} : decodeOp w = .ok i ↔ w = encode i :=
  ⟨eq_encode_of_decodeOp, fun h => h ▸ decodeOp_encode i⟩

/-- Settles O1: every operation is well-formed, so `decodeOp_eq_ok_iff` is both directions. -/
theorem decodeAndEncodeAgree : Obligations.DecodeAndEncodeAgree := by
  intro i w
  have hwf : i.wf = true := by cases i <;> rfl
  rw [decodeOp_eq_ok_iff, hwf, eq_self, true_and]

/-- Settles O3: the map's words are those of the encoder, and the four words next to them are evaluated. -/
theorem opcodeMapWordsDecode : Obligations.OpcodeMapWordsDecode :=
  ⟨decodeOp_encode .nop, decodeOp_encode .crc8, decodeOp_encode .decode, decodeOp_encode .scan,
    decodeOp_encode .encode, decodeOp_encode .rxRead, decodeOp_encode .txWrite, decodeOp_encode .cycle,
    rfl, rfl, rfl, rfl⟩

/-- The encoder writes words below 8 alone: MBZ zero and no reserved OP (R80, R81). -/
theorem toNat_encode_lt (i : Instr) : (encode i).toNat < 8 := by
  cases i <;> decide

/-- The opcode map leaves no word below 8 out (R81). -/
theorem exists_toNat_encode : ∀ n < 8, ∃ i, (encode i).toNat = n
  | 0, _ => ⟨.nop, rfl⟩
  | 1, _ => ⟨.crc8, rfl⟩
  | 2, _ => ⟨.decode, rfl⟩
  | 3, _ => ⟨.scan, rfl⟩
  | 4, _ => ⟨.encode, rfl⟩
  | 5, _ => ⟨.rxRead, rfl⟩
  | 6, _ => ⟨.txWrite, rfl⟩
  | 7, _ => ⟨.cycle, rfl⟩

/-- The operations' words are the eight words below 8 (R81). -/
theorem exists_eq_encode_iff {w : Word} : (∃ i, w = encode i) ↔ w.toNat < 8 := by
  constructor
  · rintro ⟨i, rfl⟩
    exact toNat_encode_lt i
  · intro h
    obtain ⟨i, hi⟩ := exists_toNat_encode _ h
    exact ⟨i, BitVec.eq_of_toNat_eq hi.symm⟩

/-- The decoder is total: what it reads as no operation, it rejects (R82). -/
theorem decodeOp_eq_error_iff {w : Word} : (∃ e, decodeOp w = .error e) ↔ ¬ ∃ i, decodeOp w = .ok i := by
  cases decodeOp w <;> simp

/-- Settles O2: a rejected word is one that the encoder never writes, one not below 8. -/
theorem illegalWordsAreRejected : Obligations.IllegalWordsAreRejected := by
  intro w
  calc (∃ e, decodeOp w = .error e)
    _ ↔ ¬ ∃ i, w = encode i := by simp only [decodeOp_eq_error_iff, decodeOp_eq_ok_iff]
    _ ↔ ¬ w.toNat < 8 := not_congr exists_eq_encode_iff
    _ ↔ 8 ≤ w.toNat % 16 ∨ w.toNat / 16 ≠ 0 := by omega

/-- Acceptance of an illegal word (R180): it starts in EXEC, clears no FRAME_VALID and latches no command. -/
theorem acceptCommand_illegal {w : Word} {e : DecodeError} (he : decodeOp w = .error e) (s : State) :
    acceptCommand w s = { s with cmd := w, busy := true, done := false, result := .ok, seq := .exec } := by
  simp [acceptCommand, he, firstState, clearsFrameValid, latchesAtAcceptance]

/-- The write to CMD of an idle engine is the acceptance (R64, R180). -/
theorem memWrite_cmd_idle {s : State} (hb : s.busy = false) (v : Word) :
    memWrite s offCmd 4 v = some (acceptCommand v s) := by
  rw [memWrite_register s v (by decide) (by decide), writeRegister, hb, Bool.and_false, if_neg Bool.false_ne_true,
    if_pos rfl]

/-- The EXEC step of an illegal word (R82, R191). -/
theorem engineStep_illegal {s : State} {e : DecodeError} (hb : s.busy = true) (hs : s.seq = .exec)
    (he : decodeOp s.cmd = .error e) : engineStep s = .next (complete .illegalOp s) := by
  rw [engineStep, if_pos hb, he]
  exact if_pos hs

/-- Settles O9: the rejected word is accepted into EXEC, and the step there is the illegal word's. -/
theorem illegalWordEndsWithIllegalOp : Obligations.IllegalWordEndsWithIllegalOp := by
  intro s w hw hb
  obtain ⟨e, he⟩ := (illegalWordsAreRejected w).2 hw
  constructor
  · exact (memWrite_cmd_idle hb w).trans (congrArg some (acceptCommand_illegal he s))
  · exact engineStep_illegal rfl rfl he

end Sys2Proof.Machine
end

section
/-! The layout of a command frame (30_encoding.md R86, 41_codec.md R121) and the checksum's residue (40_checksum.md R104). -/

namespace Sys2Proof.Machine

/-- The checksum of a list goes on from the accumulator of its first part (R101). -/
theorem crc8From_append (acc : Byte) (p q : List Byte) :
    crc8From acc (p ++ q) = crc8From (crc8From acc p) q := by
  induction p generalizing acc with
  | nil => rfl
  | cons b p ih => exact ih _

/-- Law 3 of R104: one more byte is one more table step. -/
theorem crc8_append_singleton (p : List Byte) (b : Byte) : crc8 (p ++ [b]) = crcTable (crc8 p ^^^ b) :=
  crc8From_append _ p [b]

/-- Law 4 of R104: a list with its own checksum behind it has checksum 0. -/
theorem crc8_append_crc8 (p : List Byte) : crc8 (p ++ [crc8 p]) = 0x00#8 := by
  rw [crc8_append_singleton, BitVec.xor_self]
  rfl

/-- Settles O16: the frame is sync, body and the body's check byte, so bytes 1 to 13 leave the residue 0. -/
theorem encodedFrameLayout : Obligations.EncodedFrameLayout :=
  fun p y d => ⟨length_encodeCommand p y d, rfl, crc8_append_crc8 (commandBody p y d)⟩

end Sys2Proof.Machine
end

section
/-! The host's statements by what they do (30_encoding.md R90): the branch, and the writes. -/

namespace Sys2Proof.Machine

/-- Settles O6: the turn taken leaves the host as it is, so it runs the statement it was at. -/
theorem hostTurnRunsItsStatement : Obligations.HostTurnRunsItsStatement := by
  intro s st hn hst
  have hstep : step s = hostStmt st (takeTurn s) := by rw [step_host hn, hostStep_at (s := takeTurn s) hst]
  exact ⟨hstep, fun hhalt => by rw [hstep, hhalt, hostStmt]⟩

/-- A branch whose read and label are answered (R90): `t` is the word read, and the masked word chooses the place. -/
theorem hostBranch_eq {s : State} {a l k : Nat} {x : Word} (hx : memRead s a 4 = some x)
    (hk : findLabel l s.host.prog = some k) (m : Word) (taken : Word → Bool) :
    hostBranch a m taken l s =
      .next { s with host := { s.host with pc := if taken (x &&& m) then k else s.host.pc + 1, t := x } } := by
  rw [hostBranch, hx]
  cases hf : taken (x &&& m) with
  | false => simp [hf, hostNext, setT]
  | true => simp [hf, hostGoto, hk, setT]

/-- Settles O43: BRNE and BREQ are `hostBranch` with the two comparisons. -/
theorem hostBranchesCompareMaskedReads : Obligations.HostBranchesCompareMaskedReads := by
  intro s a l k m v x hx hk
  constructor <;> rw [hostStmt, hostBranch_eq hx hk]
  · simp only [bne_iff_ne, ne_eq, ite_not]
  · simp only [beq_iff_eq]

/-- An admitted host write goes on to the next statement, with the host's program and `t` kept. -/
theorem hostWrite_goes_on {a n : Nat} (h : admitted a n = true) (v : Word) (s : State) :
    ∃ t, memWrite s a n v = some t ∧ hostWrite a n v s =
      .next { t with host := { prog := s.host.prog, pc := s.host.pc + 1, t := s.host.t } } := by
  obtain ⟨t, hw, hnext⟩ := hostWrite_next h v s
  have hhost : t.host = s.host := writeEffect_host (memWrite_effect hw)
  exact ⟨t, hw, by rw [hnext, hostNext, hhost]⟩

/-- Settles O60: both statements are `hostWrite`, at their widths. -/
theorem hostWritesStoreAndGoOn : Obligations.HostWritesStoreAndGoOn :=
  fun s _ v => ⟨fun h => hostWrite_goes_on h v s, fun h => hostWrite_goes_on h v s⟩

end Sys2Proof.Machine
end

section
/-! The checksum engine (40_checksum.md): its shift register, its table and its bitwise form, and the CRC8 operation. -/

namespace Sys2Proof.Machine

/-- The bit shifted out comes back as bit 7: bit 7 of the polynomial is set, and the shift itself clears it (R100). -/
theorem getLsbD_seven_crcShift (c : Byte) : (crcShift c).getLsbD 7 = c.getLsbD 0 := by
  unfold crcShift
  split
  · next h => simp [h, Config.crcPolyReflected]
  · next h => simpa using h

/-- A byte is its bit 0 and its other seven bits. -/
theorem byte_eq_of_bit_zero_of_shift {a b : Byte} (hbit : a.getLsbD 0 = b.getLsbD 0) (hrest : a >>> 1 = b >>> 1) :
    a = b := by
  apply BitVec.eq_of_getLsbD_eq
  intro i _
  cases i with
  | zero => exact hbit
  | succ i => simpa [Nat.add_comm] using congrArg (·.getLsbD i) hrest

/-- A step of the shift register loses nothing. -/
theorem crcShift_injective : Function.Injective crcShift := by
  intro a b h
  have hbit : a.getLsbD 0 = b.getLsbD 0 := by
    rw [← getLsbD_seven_crcShift a, h, getLsbD_seven_crcShift]
  refine byte_eq_of_bit_zero_of_shift hbit ?_
  unfold crcShift at h
  rw [hbit] at h
  split at h
  · exact (BitVec.xor_left_inj _).1 h
  · exact h

theorem crcShiftN_injective (n : Nat) : Function.Injective (crcShiftN n) := by
  induction n with
  | zero => exact Function.injective_id
  | succ n ih => exact ih.comp crcShift_injective

/-- The literal rows of R100 are the entries in the order of their index. -/
theorem crcTable_eq_tableEntry : ∀ a : Byte, crcTable a = tableEntry a := by decide

theorem crcTable_injective : Function.Injective crcTable := by
  rw [funext crcTable_eq_tableEntry]
  exact crcShiftN_injective 8

/-- Settles O10: the entries are evaluated, and eight injective steps give distinct ones. -/
theorem crcTableIsEightShifts : Obligations.CrcTableIsEightShifts :=
  ⟨crcTable_eq_tableEntry, fun _ _ h => crcTable_injective h⟩

/-- The two forms agree from every accumulator (R102). -/
theorem crc8From_eq_crc8BitwiseFrom (acc : Byte) (bs : List Byte) : crc8From acc bs = crc8BitwiseFrom acc bs := by
  induction bs generalizing acc with
  | nil => rfl
  | cons b bs ih => rw [crc8From, crc8BitwiseFrom, crcTable_eq_tableEntry, tableEntry, ih]

/-- Settles O11: both forms start from CRC_INIT. -/
theorem crc8EqualsItsBitwiseForm : Obligations.Crc8EqualsItsBitwiseForm :=
  crc8From_eq_crc8BitwiseFrom Config.crcInit

/-- A byte taken in is never lost: distinct accumulators stay distinct whatever bytes follow. -/
theorem crc8From_injective (bs : List Byte) : Function.Injective (crc8From · bs) := by
  induction bs with
  | nil => exact Function.injective_id
  | cons b bs ih => exact fun x y h => (BitVec.xor_left_inj _).1 (crcTable_injective (ih h))

/-- Law 5 of R104: the two lists reach the changed byte with one accumulator and leave it with two. -/
theorem crc8_ne_of_byte_ne (p q : List Byte) {a b : Byte} (hab : a ≠ b) : crc8 (p ++ a :: q) ≠ crc8 (p ++ b :: q) := by
  intro h
  rw [crc8, crc8, crc8From_append, crc8From_append] at h
  exact hab ((BitVec.xor_right_inj _).1 (crcTable_injective (crc8From_injective q h)))

/-- Settles O12: laws 2 to 5 of R104, in their order. -/
theorem crc8Laws : Obligations.Crc8Laws :=
  ⟨rfl, crc8_append_singleton, crc8_append_crc8, fun p q _ _ => crc8_ne_of_byte_ne p q⟩

/-- Settles O13: the operation's one step is in EXEC, and its two results are those of `crc8Step_cases`. -/
theorem crc8OperationChecksumsItsSpan : Obligations.Crc8OperationChecksumsItsSpan := by
  intro s hs
  rw [exec_crc8_next hs, ← crc8EqualsItsBitwiseForm]
  obtain ⟨hout, hstep⟩ | ⟨hin, hstep⟩ := crc8Step_cases s <;> rw [hstep]
  · exact ⟨fun hin => absurd hout hin.not_gt, fun _ => rfl⟩
  · exact ⟨fun _ => rfl, fun hout => absurd hout hin.not_gt⟩

end Sys2Proof.Machine
end

section
/-! The frame codec (41_codec.md R120-R129): what a telemetry frame is, both round trips, and the steps of DECODE and ENCODE. -/

namespace Sys2Proof.Machine

/-- `validTelemetry` (R120) as the three tests it makes. -/
theorem validTelemetry_iff {f : List Byte} : validTelemetry f = true ↔
    f.length = 13 ∧ frameByte f 0 = 0x5A#8 ∧ frameByte f 12 = crc8 (framePayload f 11) := by
  simp [validTelemetry, Config.frameIn, Config.syncIn, and_assoc]

theorem decodeTelemetry_valid {f : List Byte} (h : validTelemetry f = true) :
    decodeTelemetry f = some (telemetryOf f) :=
  if_pos h

theorem decodeTelemetry_invalid {f : List Byte} (h : ¬ validTelemetry f = true) : decodeTelemetry f = none :=
  if_neg h

/-- The eleven payload bytes of a telemetry frame are those of its fields, in order (R85, R87). -/
theorem payload_of_telemetryOf {f : List Byte} (h : f.length = 13) :
    bytesLe32 (telemetryOf f).gainYaw ++ bytesLe32 (telemetryOf f).gainPitch ++
      [(telemetryOf f).mode, (telemetryOf f).color, (telemetryOf f).speed] = framePayload f 11 := by
  match f, h with
  | [_, _, _, _, _, _, _, _, _, _, _, _, _], _ => simp [telemetryOf, frameField, frameByte, framePayload]

/-- A frame of 13 bytes is its sync byte, its payload and its check byte (R85). -/
theorem frame_eq_sync_payload_check {f : List Byte} (h : f.length = 13) :
    [frameByte f 0] ++ framePayload f 11 ++ [frameByte f 12] = f := by
  match f, h with
  | [_, _, _, _, _, _, _, _, _, _, _, _, _], _ => rfl

/-- The record of a valid frame encodes back to the frame (R128): sync and check byte are what the validity test fixes. -/
theorem encodeTelemetry_telemetryOf {f : List Byte} (h : validTelemetry f = true) :
    encodeTelemetry (telemetryOf f) = f := by
  obtain ⟨hlen, hsync, hcheck⟩ := validTelemetry_iff.1 h
  calc encodeTelemetry (telemetryOf f)
    _ = [0x5A#8] ++ framePayload f 11 ++ [crc8 (framePayload f 11)] := by
      rw [← payload_of_telemetryOf hlen]; rfl
    _ = f := by rw [← hsync, ← hcheck, frame_eq_sync_payload_check hlen]

/-- Settles O14: the command frame's fields are read back, and a valid telemetry frame is the frame of its record. -/
theorem framesRoundTrip : Obligations.FramesRoundTrip :=
  ⟨decodeCommand_encodeCommand, fun f h => ⟨telemetryOf f, decodeTelemetry_valid h, encodeTelemetry_telemetryOf h⟩⟩

/-- Settles O15: byte 0 is the outbound sync byte, which is not the inbound one. -/
theorem outboundFrameIsNeverInbound : Obligations.OutboundFrameIsNeverInbound := by
  intro p y d
  have hbyte : frameByte ((encodeCommand p y d).take 13) 0 = 0xA5#8 := rfl
  refine Bool.eq_false_iff.2 fun h => ?_
  obtain ⟨-, hsync, -⟩ := validTelemetry_iff.1 h
  exact absurd (hbyte.symm.trans hsync) (by decide)

/-! ### DECODE -/

/-- `frameAt` is the bound and the validity test of the candidate (R120, R126). -/
theorem frameAt_iff {s : State} {i : Nat} :
    frameAt s i ↔ i + 13 ≤ rxCount s ∧ validTelemetry (rxSpan s i 13) = true :=
  and_congr_right fun _ => (validTelemetry_rxSpan s i).symm

/-- DECODE's step on a window that leaves the valid bytes (R126). -/
theorem decodeStep_outside {s : State} (h : rxCount s < operandOffset s + 13) : decodeStep s = complete .badArg s :=
  if_pos h

/-- DECODE's step on a window of the valid bytes is decided by what the codec reads there (R126). -/
theorem decodeStep_inside {s : State} (h : operandOffset s + 13 ≤ rxCount s) :
    decodeStep s = (decodeTelemetry (decodeSpan s)).elim (complete .noFrame s)
      fun r => complete .ok (commitTelemetry (operandOffset s) r s) := by
  have hin : ¬ operandOffset s + Config.frameIn > rxCount s := Nat.not_lt.2 h
  rw [decodeStep, if_neg hin]
  cases decodeTelemetry (decodeSpan s) <;> rfl

/-- DECODE's step on a frame (R123, R126). -/
theorem decodeStep_frame {s : State} (h : frameAt s (operandOffset s)) :
    decodeStep s = complete .ok (withFrame s (operandOffset s)) := by
  obtain ⟨hlen, hvalid⟩ := frameAt_iff.1 h
  have hdec : decodeTelemetry (decodeSpan s) = some (telemetryOf (rxSpan s (operandOffset s) 13)) :=
    decodeTelemetry_valid hvalid
  rw [decodeStep_inside hlen, hdec, Option.elim_some, commitTelemetry_rxSpan]

/-- DECODE's step on a window of the valid bytes that is no frame (R126). -/
theorem decodeStep_noFrame {s : State} (hlen : operandOffset s + 13 ≤ rxCount s)
    (h : ¬ frameAt s (operandOffset s)) : decodeStep s = complete .noFrame s := by
  have hdec : decodeTelemetry (decodeSpan s) = none :=
    decodeTelemetry_invalid fun hvalid => h (frameAt_iff.2 ⟨hlen, hvalid⟩)
  rw [decodeStep_inside hlen, hdec, Option.elim_none]

/-- Settles O18: the operation's one step is in EXEC, and each of the three cases has its lemma about that step. -/
theorem decodeOperationTakesItsCandidate : Obligations.DecodeOperationTakesItsCandidate := by
  intro s hs
  rw [exec_decode_next hs]
  exact ⟨fun h => congrArg _ (decodeStep_frame h), fun hlen h => congrArg _ (decodeStep_noFrame hlen h),
    fun h => congrArg _ (decodeStep_outside h)⟩

/-! ### ENCODE -/

/-- An encode step leaves every byte outside TX as it was (R127). -/
theorem regionByte_encodeShadow {s : State} {a : Nat} (h : ¬ (0x200 ≤ a ∧ a < 0x20E)) :
    regionByte (encodeShadow s) a = regionByte s a :=
  regionByte_outside_stores (encodeShadow_mem s) (encodeShadow_resets s) h

/-- Settles O19: the state is that of `encodeShadow`, and the end of the operation touches neither memory nor TX_LEN. -/
theorem encodeOperationWritesTheFrame : Obligations.EncodeOperationWritesTheFrame := by
  intro s hs
  refine ⟨complete .ok (encodeShadow s), exec_encode_next hs, ?_, fun a ha => ?_, rfl⟩
  · exact txSpan_fillTx (length_encodeCommand ..) s
  · exact regionByte_encodeShadow ha

end Sys2Proof.Machine
end

section
/-! The scan (42_synchronizer.md R150-R153): the answer of the descending search as the largest accepted offset, and the
acceptance test as the bytes it compares. -/

namespace Sys2Proof.Machine

/-! ### The descending search -/

/-- The search passes no accepted offset by: its answer is there or above (R150). -/
theorem scanDown_of_accepted {bs : List Byte} {n j : Nat} (hle : j ≤ n) (hacc : acceptAt bs j = true) :
    ∃ i, scanDown bs n = some i ∧ j ≤ i := by
  induction n with
  | zero =>
    obtain rfl : j = 0 := Nat.le_zero.1 hle
    exact ⟨0, if_pos hacc, le_rfl⟩
  | succ n ih =>
    rw [scanDown]
    split
    · exact ⟨n + 1, rfl, hle⟩
    · next htop =>
      have hne : j ≠ n + 1 := by rintro rfl; exact htop hacc
      exact ih (by omega)

/-- An accepted offset makes the scan answer, with it or a higher one (R150, R153). -/
theorem scan_of_accepted {bs : List Byte} {j : Nat} (hlen : j + 13 ≤ bs.length) (hacc : acceptAt bs j = true) :
    ∃ i, scan bs = some i ∧ j ≤ i := by
  have hlong : ¬ bs.length < Config.frameIn := by rw [Config.frameIn]; omega
  rw [scan, if_neg hlong]
  exact scanDown_of_accepted (Nat.le_sub_of_add_le hlen) hacc

/-- R153: the scan answers the largest accepted offset. -/
theorem scan_eq_some_iff {bs : List Byte} {i : Nat} : scan bs = some i ↔
    i + 13 ≤ bs.length ∧ acceptAt bs i = true ∧ ∀ j, i < j → j + 13 ≤ bs.length → acceptAt bs j = false := by
  constructor
  · intro hscan
    obtain ⟨hlen, hacc⟩ := scan_some hscan
    refine ⟨hlen, hacc, fun j hij hj => Bool.eq_false_iff.2 fun hjacc => ?_⟩
    obtain ⟨k, hk, hjk⟩ := scan_of_accepted hj hjacc
    obtain rfl : i = k := Option.some.inj (hscan.symm.trans hk)
    omega
  · rintro ⟨hlen, hacc, hnewest⟩
    obtain ⟨k, hk, hik⟩ := scan_of_accepted hlen hacc
    obtain ⟨hklen, hkacc⟩ := scan_some hk
    obtain rfl | hlt := hik.eq_or_lt
    · exact hk
    · exact absurd hkacc (Bool.eq_false_iff.1 (hnewest k hlt hklen))

/-- R152, R153: the scan answers nothing exactly when no offset is accepted. -/
theorem scan_eq_none_iff {bs : List Byte} :
    scan bs = none ↔ ∀ i, i + 13 ≤ bs.length → acceptAt bs i = false := by
  constructor
  · intro hscan i hlen
    refine Bool.eq_false_iff.2 fun hacc => ?_
    obtain ⟨k, hk, -⟩ := scan_of_accepted hlen hacc
    exact absurd (hscan.symm.trans hk) nofun
  · intro hnone
    refine Option.eq_none_iff_forall_ne_some.2 fun i hscan => ?_
    obtain ⟨hlen, hacc⟩ := scan_some hscan
    exact absurd hacc (Bool.eq_false_iff.1 (hnone i hlen))

/-- Settles O20: the answer is accepted (`scan_some`), and no accepted offset is above it (`scan_of_accepted`). -/
theorem scanGivesTheLargestAcceptedOffset : Obligations.ScanGivesTheLargestAcceptedOffset :=
  fun _ => ⟨fun _ => scan_eq_some_iff, scan_eq_none_iff⟩

/-! ### The acceptance test -/

theorem length_window {bs : List Byte} {i : Nat} (h : i + 13 ≤ bs.length) : (window bs i).length = 13 := by
  simp [window, Config.frameIn]
  omega

/-- Byte `k` of the window at offset `i` is byte `i + k` of the buffer. -/
theorem getElem?_eq_frameByte_window {bs : List Byte} {i k : Nat} (h : i + 13 ≤ bs.length) (hk : k < 13) :
    bs[i + k]? = some (frameByte (window bs i) k) := by
  have hlt : i + k < bs.length := by omega
  simp [frameByte, window, Config.frameIn, hk, hlt]

/-- The payload of the window at offset `i` is the eleven bytes after its sync byte (R16, R151). -/
theorem framePayload_window (bs : List Byte) (i : Nat) :
    framePayload (window bs i) 11 = (bs.drop (i + 1)).take 11 := by
  rw [framePayload, window, List.drop_take, List.drop_drop, List.take_take]
  rfl

/-- Settles O21: a window inside the list has 13 bytes, and the other two tests of `validTelemetry` are about bytes of
the list. -/
theorem acceptanceTestsSyncAndCheckByte : Obligations.AcceptanceTestsSyncAndCheckByte := by
  intro bs i h
  have hsync : bs[i]? = some (frameByte (window bs i) 0) := getElem?_eq_frameByte_window (k := 0) h (by decide)
  have hcheck : bs[i + 12]? = some (frameByte (window bs i) 12) :=
    getElem?_eq_frameByte_window (k := 12) h (by decide)
  rw [acceptAt, validTelemetry_iff, hsync, hcheck, framePayload_window, Option.some_inj, Option.some_inj]
  exact and_iff_right (length_window h)

end Sys2Proof.Machine
end

section
/-! SCAN (42_synchronizer.md R154, R155): the scan of the valid bytes of RX in terms of the frames there, the operation's
two results, and the RX bytes that none of CRC8, DECODE and SCAN reads. -/

namespace Sys2Proof.Machine

/-! ### The newest frame -/

/-- `frameAt` is acceptance at an offset of the valid bytes of RX (R151). -/
theorem frameAt_iff_acceptAt {s : State} {i : Nat} :
    frameAt s i ↔ i + 13 ≤ (validRx s).length ∧ acceptAt (validRx s) i = true := by
  rw [frameAt_iff, validRx, length_rxSpan]
  exact and_congr_right fun hlen => by rw [acceptAt, ← validRx, window_validRx hlen]

/-- The scan of RX answers the newest frame (R153). -/
theorem scan_of_newest {s : State} {i : Nat} (hframe : frameAt s i) (hnewest : ∀ j, i < j → ¬ frameAt s j) :
    scan (validRx s) = some i := by
  obtain ⟨hlen, hacc⟩ := frameAt_iff_acceptAt.1 hframe
  exact scan_eq_some_iff.2 ⟨hlen, hacc, fun j hij hj =>
    Bool.eq_false_iff.2 fun hjacc => hnewest j hij (frameAt_iff_acceptAt.2 ⟨hj, hjacc⟩)⟩

/-- The scan of RX answers nothing when no frame lies there (R152, R153). -/
theorem scan_of_no_frame {s : State} (h : ∀ i, ¬ frameAt s i) : scan (validRx s) = none :=
  scan_eq_none_iff.2 fun i hi => Bool.eq_false_iff.2 fun hacc => h i (frameAt_iff_acceptAt.2 ⟨hi, hacc⟩)

/-- The frame at the offset the scan answers is committed (R155, R188). -/
theorem scanCommit_some {s : State} {i : Nat} (h : scan (validRx s) = some i) : scanCommit s = withFrame s i := by
  obtain ⟨hlen, -⟩ := scan_some h
  rw [validRx, length_rxSpan] at hlen
  rw [scanCommit, h, ← commitTelemetry_rxSpan, ← window_validRx hlen]

/-- Without an answer of the scan nothing is committed (R155, R188). -/
theorem scanCommit_none {s : State} (h : scan (validRx s) = none) : scanCommit s = s := by
  rw [scanCommit, h]

theorem scanResult_some {s : State} {i : Nat} (h : scan (validRx s) = some i) : scanResult s = .ok := by
  rw [scanResult, h]
  rfl

theorem scanResult_none {s : State} (h : scan (validRx s) = none) : scanResult s = .noFrame := by
  rw [scanResult, h]
  rfl

/-- Settles O22: the operation's one step is in EXEC, and the scan's answer decides both the commit and the result. -/
theorem scanOperationTakesTheNewestFrame : Obligations.ScanOperationTakesTheNewestFrame := by
  intro s hs
  rw [exec_scan_next hs]
  constructor
  · intro i hframe hnewest
    have hscan := scan_of_newest hframe hnewest
    rw [scanCommit_some hscan, scanResult_some hscan]
    rfl
  · intro hnone
    have hscan := scan_of_no_frame hnone
    rw [scanCommit_none hscan, scanResult_none hscan]
    rfl

/-! ### The bytes beyond RX_LEN -/

theorem crc8Step_outside {s : State} (h : rxCount s < operandOffset s + operandLength s) :
    crc8Step s = complete .badArg s :=
  if_pos h

theorem crc8Step_inside {s : State} (h : operandOffset s + operandLength s ≤ rxCount s) :
    crc8Step s = complete .ok { s with crcResult := crc8 (crcSpan s) } :=
  if_neg h.not_gt

section
variable {s : State} {m : List Host.Cell} (hrx : ∀ k, k < rxCount s → rxByte { s with mem := m } k = rxByte s k)
include hrx

/-- A span of the valid bytes of RX is the same in both memories; each of the three operations reads one such span. -/
theorem rxSpan_with_mem {o n : Nat} (h : o + n ≤ rxCount s) : rxSpan { s with mem := m } o n = rxSpan s o n :=
  rxSpan_congr fun k hk => hrx (o + k) (by omega)

/-- CRC8 reads no byte at an index of N or more (R105). -/
theorem crc8Step_with_mem : crc8Step { s with mem := m } = { crc8Step s with mem := m } := by
  obtain hout | hin := Nat.lt_or_ge (rxCount s) (operandOffset s + operandLength s)
  · rw [crc8Step_outside hout]
    exact crc8Step_outside hout
  · have hspan : crcSpan { s with mem := m } = crcSpan s := rxSpan_with_mem hrx hin
    rw [crc8Step_inside hin, crc8Step_inside (s := { s with mem := m }) hin, hspan]
    rfl

/-- DECODE reads no byte at an index of N or more (R126). -/
theorem decodeStep_with_mem : decodeStep { s with mem := m } = { decodeStep s with mem := m } := by
  obtain hout | hin := Nat.lt_or_ge (rxCount s) (operandOffset s + 13)
  · rw [decodeStep_outside hout]
    exact decodeStep_outside hout
  · have hspan : decodeSpan { s with mem := m } = decodeSpan s := rxSpan_with_mem hrx hin
    rw [decodeStep_inside hin, decodeStep_inside (s := { s with mem := m }) hin, hspan]
    cases decodeTelemetry (decodeSpan s) <;> rfl

theorem validRx_with_mem : validRx { s with mem := m } = validRx s :=
  rxSpan_with_mem hrx (Nat.zero_add _).le

/-- SCAN reads no byte at an index of N or more (R154). -/
theorem scanStep_with_mem : complete (scanResult { s with mem := m }) (scanCommit { s with mem := m }) =
    { complete (scanResult s) (scanCommit s) with mem := m } := by
  have hresult : scanResult { s with mem := m } = scanResult s := by
    rw [scanResult, validRx_with_mem hrx, scanResult]
  have hcommit : scanCommit { s with mem := m } = { scanCommit s with mem := m } := by
    rw [scanCommit, validRx_with_mem hrx, scanCommit]
    cases scan (validRx s) <;> rfl
  rw [hresult, hcommit]
  rfl

end

/-- Settles O23: each of the three operations has its one step in EXEC, which reads a span of the valid
bytes. -/
theorem bytesBeyondRxLenNeverMatter : Obligations.BytesBeyondRxLenNeverMatter := by
  rintro s t m i (rfl | rfl | rfl) hrx hexec
  all_goals cases exec_effect hexec
  case crc8 hs =>
    rw [← crc8Step_with_mem hrx]
    exact exec_crc8_next hs
  case decode hs =>
    rw [← decodeStep_with_mem hrx]
    exact exec_decode_next hs
  case scan hs =>
    rw [← scanStep_with_mem hrx]
    exact exec_scan_next hs

end Sys2Proof.Machine
end

section
/-! Acceptance of a command and the engine's turn (43_session.md R180, R181; logs 6, 8, 16): which words `acceptCommand`
tells apart, the write to CMD while BUSY = 1, and the operation that the engine's turn runs. -/

namespace Sys2Proof.Machine

/-! ### Acceptance (R180) -/

/-- FRAME_VALID is cleared for DECODE, SCAN and CYCLE. -/
theorem clearsFrameValid_iff {op : Except DecodeError Instr} :
    clearsFrameValid op = true ↔ op = .ok .decode ∨ op = .ok .scan ∨ op = .ok .cycle := by
  cases op with
  | error _ => simp [clearsFrameValid]
  | ok i => cases i <;> simp [clearsFrameValid]

/-- The shadow command is latched for ENCODE. -/
theorem latchesAtAcceptance_iff {op : Except DecodeError Instr} :
    latchesAtAcceptance op = true ↔ op = .ok .encode := by
  cases op with
  | error _ => simp [latchesAtAcceptance]
  | ok i => cases i <;> simp [latchesAtAcceptance]

/-- Three operations start in a sequencer state of their own, every other word in EXEC. -/
theorem firstState_eq (op : Except DecodeError Instr) : firstState op =
    if op = .ok .rxRead then .read else if op = .ok .txWrite then .write
    else if op = .ok .cycle then .waitReady else .exec := by
  cases op with
  | error _ => simp [firstState]
  | ok i => cases i <;> simp [firstState]

/-- The write to CMD of a busy engine is ignored (R64, R180). -/
theorem memWrite_cmd_busy {s : State} (hb : s.busy = true) (v : Word) :
    memWrite s offCmd 4 v = some (ignoreWrite s) := by
  rw [memWrite_register s v (by decide) (by decide), writeRegister, hb]
  rfl

/-- Settles O8: while idle the state is `acceptCommand`'s, whose three choices are by the operation that the word
encodes. -/
theorem commandWriteIsAccepted : Obligations.CommandWriteIsAccepted := by
  refine ⟨fun s v hb => ⟨acceptCommand v s, memWrite_cmd_idle hb v, rfl, rfl, rfl, rfl, ?_, ?_, ?_, rfl⟩,
    fun s v hb => memWrite_cmd_busy hb v⟩
  · simp only [acceptCommand_frameValid, clearsFrameValid_iff, decodeOp_eq_ok_iff]
    rfl
  · simp only [acceptCommand_shadowPitch, acceptCommand_shadowYaw, acceptCommand_shadowDistance,
      latchesAtAcceptance_iff, decodeOp_eq_ok_iff]
    change _ = if v = encode .encode then _ else _
    split <;> rfl
  · simp only [acceptCommand_seq, firstState_eq, decodeOp_eq_ok_iff]
    rfl

/-! ### The engine's turn (R181) -/

theorem step_engine {s : State} (hn : nextTurn s = .engine) : step s = engineStep (takeTurn s) := by
  rw [step_eq, hn]
  rfl

theorem engineStep_idle {s : State} (hb : s.busy = false) : engineStep s = .next s := by
  rw [engineStep, hb, if_neg Bool.false_ne_true]

/-- Settles O4: the turn taken leaves BUSY and CMD as they are, so the engine runs the operation that CMD named. -/
theorem stepRunsTheDecodedOperation : Obligations.StepRunsTheDecodedOperation := by
  intro s i hn hb hi _
  exact ⟨by rw [step_engine hn, engineStep_operation (s := takeTurn s) hb hi], rfl⟩

/-- Settles O5: the idle engine's step keeps the state in which the turn is taken. -/
theorem idleEngineKeepsItsState : Obligations.IdleEngineKeepsItsState := by
  intro s hn hb
  rw [step_engine hn, engineStep_idle (s := takeTurn s) hb]
  rfl

/-- A word placed as its own 32 bits is placed whole. -/
theorem withFetchWord_toNat (s : State) (v : Word) : s.withFetchWord 32 v.toNat = placeCommand v s := by
  rw [State.withFetchWord, Nat.mod_eq_of_lt v.isLt, BitVec.ofNat_toNat, BitVec.setWidth_eq]

/-- A row of 32 bits is read as the command word it is (R80). -/
theorem decodeTableWord_toNat (v : Word) : decodeTableWord 32 v.toNat = (decodeOp v).toOption := by
  rw [decodeTableWord, Nat.mod_eq_of_lt v.isLt, if_pos v.isLt, BitVec.ofNat_toNat, BitVec.setWidth_eq]

/-- Settles O7: in the state of `placeCommand` the engine's turn is next, BUSY is 1 and CMD is the word placed. -/
theorem placedCommandRunsNext : Obligations.PlacedCommandRunsNext := by
  intro s i _
  have hop : decodeOp (placeCommand (encode i) s).cmd = .ok i := decodeOp_encode i
  rw [withFetchWord_toNat, decodeTableWord_toNat, decodeOp_encode]
  refine ⟨?_, hop, rfl⟩
  rw [step_engine rfl, engineStep_operation (s := takeTurn (placeCommand (encode i) s)) rfl hop]

end Sys2Proof.Machine
end

section
/-! The engine steps of the session one by one (43_session.md R182-R190): a read step and what it stores in RX, a write
step, and CYCLE's gate, SCAN and ENCODE, each with the request that R192 records. -/

namespace Sys2Proof.Machine

/-- Settles O24: NOP's one step is the end of the operation. -/
theorem nopOnlyCompletes : Obligations.NopOnlyCompletes := fun _ => exec_nop_next

/-! ### A read (R171, R183, R187) -/

theorem afterRead_eq_readLogged {s : State} {ans : ReadAnswer} (h : readAnswer s = ans) :
    afterRead s = readLogged s ans := by
  rw [afterRead, h]
  rfl

/-- RX_LEN counts the bytes of an answer: 255 of them fit its field (R28). -/
theorem rxLen_takeBytes {bs : List Byte} (h : bs.length ≤ 255) (s : State) :
    (takeBytes bs s).rxLen.toNat = bs.length := by
  rw [takeBytes_rxLen, BitVec.toNat_ofNat, Nat.mod_eq_of_lt (by omega)]

/-- RX holds the bytes of an answer from index 0 on. -/
theorem rxSpan_takeBytes {bs : List Byte} (h : bs.length ≤ 255) (s : State) :
    rxSpan (takeBytes bs s) 0 bs.length = bs := by
  refine List.ext_getElem (length_rxSpan ..) fun k hk hk' => ?_
  have hbyte : rxByte (takeBytes bs s) k = bs.getD k 0#8 := by
    rw [rxByte, regionByte_memStoreList _ (takeBytes_mem bs s) (takeBytes_resets bs s),
      if_pos ⟨isBuffer_rx (by omega), by omega, by omega⟩, Nat.add_sub_cancel_left]
  simp [rxSpan, hbyte, hk']

/-- Every byte outside the answer's place in RX reads as before. -/
theorem regionByte_takeBytes {bs : List Byte} {s : State} {a : Nat} (h : ¬ (0x100 ≤ a ∧ a < 0x100 + bs.length)) :
    regionByte (takeBytes bs s) a = regionByte s a :=
  regionByte_outside_stores (takeBytes_mem bs s) (takeBytes_resets bs s) h

section
variable {s : State}

theorem rxReadStep_err (h : readAnswer s = .err) : rxReadStep s = complete .rxTerr (readLogged s .err) := by
  rw [rxReadStep, h, afterRead_eq_readLogged h]

theorem rxReadStep_bytes {bs : List Byte} (h : readAnswer s = .bytes bs) :
    rxReadStep s = complete .ok (takeBytes bs (readLogged s (.bytes bs))) := by
  rw [rxReadStep, h, afterRead_eq_readLogged h]

theorem cycleRead_err (h : readAnswer s = .err) : cycleRead s = complete .rxTerr (readLogged s .err) := by
  rw [cycleRead, h, afterRead_eq_readLogged h]

theorem cycleRead_bytes {bs : List Byte} (h : readAnswer s = .bytes bs) :
    cycleRead s = { takeBytes bs (readLogged s (.bytes bs)) with seq := .scan } := by
  rw [cycleRead, h, afterRead_eq_readLogged h]

end

/-- Settles O25: the step is `takeBytes` of the answer, and the end of the operation touches neither RX nor RX_LEN. -/
theorem rxReadFillsTheBuffer : Obligations.RxReadFillsTheBuffer := by
  intro s hs
  rw [exec_rxRead_next hs]
  refine ⟨fun h => congrArg _ (rxReadStep_err h), fun bs h => ?_⟩
  have hlen := readAnswer_bound h
  exact ⟨hlen, _, congrArg _ (rxReadStep_bytes h), rxSpan_takeBytes hlen _,
    rxLen_takeBytes hlen (readLogged s (.bytes bs)),
    fun _ => regionByte_takeBytes (s := readLogged s (.bytes bs)), rfl⟩

/-- Settles O28: the step is `takeBytes` of the answer, and going on to SCAN touches neither RX nor RX_LEN. -/
theorem cycleReadFillsTheBuffer : Obligations.CycleReadFillsTheBuffer := by
  intro s hs
  rw [exec_cycleRead_next hs]
  refine ⟨fun h => congrArg _ (cycleRead_err h), fun bs h => ?_⟩
  have hlen := readAnswer_bound h
  exact ⟨_, congrArg _ (cycleRead_bytes h), rxSpan_takeBytes hlen _,
    rxLen_takeBytes hlen (readLogged s (.bytes bs)),
    fun _ => regionByte_takeBytes (s := readLogged s (.bytes bs)), rfl⟩

/-! ### A write (R172, R184, R190) -/

theorem afterWrite_eq_writeLogged {s : State} {ans : WriteAnswer} (h : writeAnswer s = ans) (bs : List Byte) :
    afterWrite bs s = writeLogged s bs ans := by
  rw [afterWrite, h]
  rfl

section
variable {s : State}

theorem txWriteStep_empty (h : s.txLen = 0#8) : txWriteStep s = complete .badArg s := by
  have hcount : txCount s = 0 := congrArg BitVec.toNat h
  rw [txWriteStep, if_pos hcount]

theorem txCount_ne_zero (h : s.txLen ≠ 0#8) : txCount s ≠ 0 := fun hz => h (BitVec.eq_of_toNat_eq hz)

theorem txWriteStep_ok (hlen : s.txLen ≠ 0#8) (h : writeAnswer s = .ok) :
    txWriteStep s = complete .ok (writeLogged s (writeSpan s) .ok) := by
  rw [txWriteStep, if_neg (txCount_ne_zero hlen), h, afterWrite_eq_writeLogged h]

theorem txWriteStep_err {n : Nat} (hlen : s.txLen ≠ 0#8) (h : writeAnswer s = .err n) :
    txWriteStep s = complete .txTerr (writeLogged s (writeSpan s) (.err n)) := by
  rw [txWriteStep, if_neg (txCount_ne_zero hlen), h, afterWrite_eq_writeLogged h]

theorem cycleWrite_ok (h : writeAnswer s = .ok) : cycleWrite s =
    complete (if s.frameValid = true then .ok else .noFrame) (writeLogged s (txSpan s 14) .ok) := by
  rw [cycleWrite, h, afterWrite_eq_writeLogged h]
  rfl

theorem cycleWrite_err {n : Nat} (h : writeAnswer s = .err n) :
    cycleWrite s = complete .txTerr (writeLogged s (txSpan s 14) (.err n)) := by
  rw [cycleWrite, h, afterWrite_eq_writeLogged h]
  rfl

end

/-- Settles O26: TX_LEN and the answer choose among the step's three results. -/
theorem txWriteHandsOverTheFrame : Obligations.TxWriteHandsOverTheFrame := by
  intro s hs
  rw [exec_txWrite_next hs]
  exact ⟨fun h => congrArg _ (txWriteStep_empty h), fun hlen h => congrArg _ (txWriteStep_ok hlen h),
    fun _ hlen h => congrArg _ (txWriteStep_err hlen h)⟩

/-- Settles O31: the answer chooses between the step's two ends. -/
theorem cycleWriteEndsTheCycle : Obligations.CycleWriteEndsTheCycle := by
  intro s hs
  rw [exec_cycleWrite_next hs]
  exact ⟨fun h => congrArg _ (cycleWrite_ok h), fun _ h => congrArg _ (cycleWrite_err h)⟩

/-! ### CYCLE's gate, SCAN and ENCODE (R186, R188, R189) -/

theorem cycleGate_open {s : State} (h : s.ready = true) :
    cycleGate s = { latchCommand s with ready := false, seq := .read } :=
  if_pos h

theorem cycleGate_closed {s : State} (h : s.ready = false) : cycleGate s = s := by
  rw [cycleGate, h, if_neg Bool.false_ne_true]

/-- Settles O27: READY opens the gate, which latches the command. -/
theorem cycleGateConsumesReady : Obligations.CycleGateConsumesReady := by
  intro s hs
  rw [exec_cycleGate_next hs]
  exact ⟨fun h => congrArg _ (cycleGate_open h), fun h => congrArg _ (cycleGate_closed h)⟩

/-- Settles O29: CDONE and ENCODE come after the commit of the scan's answer, whichever it is. -/
theorem cycleScanCommitsAndSignals : Obligations.CycleScanCommitsAndSignals := by
  intro s hs
  rw [exec_cycleScan_next hs, cycleScan]
  constructor
  · intro i hframe hnewest
    rw [scanCommit_some (scan_of_newest hframe hnewest)]
  · intro hnone
    rw [scanCommit_none (scan_of_no_frame hnone)]

/-- An encode step leaves the frame of the shadow command in TX (R127, R189). -/
theorem txSpan_encodeShadow (s : State) :
    txSpan (encodeShadow s) 14 = encodeCommand s.shadowPitch s.shadowYaw s.shadowDistance :=
  txSpan_fillTx (length_encodeCommand ..) s

/-- Settles O30: the state is that of `encodeShadow`, and going on to WRITE touches neither memory nor TX_LEN. -/
theorem cycleEncodeWritesTheFrame : Obligations.CycleEncodeWritesTheFrame :=
  fun s hs => ⟨cycleEncode s, exec_cycleEncode_next hs, txSpan_encodeShadow s,
    fun _ ha => regionByte_encodeShadow ha, rfl⟩

end Sys2Proof.Machine
end

section
/-! Runs of the engine (43_session.md R185-R193): the wait at CYCLE's gate, the bound on the steps of every operation,
and what a whole CYCLE delivers and sends. -/

namespace Sys2Proof.Machine

/-! ### CYCLE from step to step (R185) -/

section
variable {s : State} (hb : s.busy = true) (hop : decodeOp s.cmd = .ok .cycle)
include hb hop

/-- A run of a CYCLE goes on from the state after its first step. -/
theorem engineSteps_cycle {u : State} (h : exec .cycle s = .next u) (n : Nat) :
    engineSteps (n + 1) s = engineSteps n u := by
  rw [engineSteps, engineStep_operation hb hop, h]

/-- From SCAN on a CYCLE takes three steps, whatever it finds (R188-R190). -/
theorem engineSteps_cycle_from_scan (hs : s.seq = .scan) :
    engineSteps 3 s = .next (cycleWrite (cycleEncode (cycleScan s))) := by
  rw [engineSteps_cycle hb hop (exec_cycleScan_next hs),
    engineSteps_cycle (by rw [cycleScan_busy, hb]) (by rw [cycleScan_cmd, hop]) (exec_cycleEncode_next rfl),
    engineSteps_cycle (by rw [cycleEncode_busy, cycleScan_busy, hb])
      (by rw [cycleEncode_cmd, cycleScan_cmd, hop]) (exec_cycleWrite_next rfl),
    engineSteps]

end

/-- CYCLE behind its open gate, the command latched (R186). -/
def gateOpened (s : State) : State := { latchCommand s with ready := false, seq := .read }

/-- CYCLE in SCAN, the gate's command latched and the bytes `bs` read (R187). -/
def scanEntered (bs : List Byte) (s : State) : State :=
  { takeBytes bs (readLogged (gateOpened s) (.bytes bs)) with seq := .scan }

/-- CYCLE in WRITE, SCAN and ENCODE done (R188, R189). Irreducible: its fields are read
through the lemmas below, and comparing it unfolded is costly. -/
@[irreducible] def writeEntered (bs : List Byte) (s : State) : State := cycleEncode (cycleScan (scanEntered bs s))

section
variable {s : State} (hb : s.busy = true) (hop : decodeOp s.cmd = .ok .cycle) (hs : s.seq = .waitReady)
  (hready : s.ready = true)
include hb hop hs hready

/-- An open gate and the read behind it (R186, R187). -/
theorem engineSteps_open_gate (n : Nat) : engineSteps (n + 2) s = engineSteps n (cycleRead (gateOpened s)) := by
  have hgate : cycleGate s = gateOpened s := cycleGate_open hready
  rw [engineSteps_cycle hb hop (exec_cycleGate_next hs), hgate,
    engineSteps_cycle (s := gateOpened s) hb hop (exec_cycleRead_next rfl)]

/-- A read that answers `Err` ends the cycle at its second step (R187). -/
theorem engineSteps_cycle_err (hread : readAnswer s = .err) :
    engineSteps 2 s = .next (complete .rxTerr (readLogged (gateOpened s) .err)) := by
  rw [engineSteps_open_gate hb hop hs hready, cycleRead_err (s := gateOpened s) hread, engineSteps]

/-- A read that answers bytes takes the cycle to SCAN, and from there to its end (R187). -/
theorem engineSteps_cycle_bytes {bs : List Byte} (hread : readAnswer s = .bytes bs) :
    engineSteps 5 s = .next (cycleWrite (writeEntered bs s)) := by
  have hfill : cycleRead (gateOpened s) = scanEntered bs s := cycleRead_bytes (s := gateOpened s) hread
  rw [engineSteps_open_gate hb hop hs hready, hfill, engineSteps_cycle_from_scan (s := scanEntered bs s) hb hop rfl,
    writeEntered]

end

/-- Settles O33: by induction on the turns, each of which is the gate's step while READY = 0. -/
theorem cycleWaitsWithoutReady : Obligations.CycleWaitsWithoutReady := by
  intro n s hb hop hs hready
  induction n with
  | zero => rfl
  | succ n ih => rw [engineSteps_cycle hb hop (exec_cycleGate_next hs), cycleGate_closed hready, ih]

/-! ### Bounds (R193) -/

/-- Every step of an operation other than CYCLE is the operation's end. -/
theorem execEffect_completes {i : Instr} {s t : State} (ht : ExecEffect s i t) (hi : i ≠ .cycle) :
    ∃ c u, t = complete c u := by
  cases ht with
  | nop _ => exact ⟨_, _, rfl⟩
  | crc8 _ => obtain ⟨_, ht⟩ | ⟨_, ht⟩ := crc8Step_cases s <;> exact ⟨_, _, ht⟩
  | decode _ => obtain ht | ⟨_, _, ht⟩ | ⟨_, _, ht⟩ := decodeStep_cases s <;> exact ⟨_, _, ht⟩
  | scan _ => exact ⟨_, _, rfl⟩
  | encode _ => exact ⟨_, _, rfl⟩
  | rxRead _ => obtain ⟨_, ht⟩ | ⟨_, _, ht⟩ := rxReadStep_cases s <;> exact ⟨_, _, ht⟩
  | txWrite _ => obtain ⟨_, ht⟩ | ⟨_, _, ht⟩ | ⟨_, _, ht⟩ := txWriteStep_cases s <;> exact ⟨_, _, ht⟩
  | _ => exact absurd rfl hi

/-- CYCLE's WRITE step ends it, whatever the transport answers (R190). -/
theorem cycleWrite_completes (s : State) : ∃ c u, cycleWrite s = complete c u := by
  obtain ⟨_, ht⟩ | ⟨_, ht⟩ := cycleWrite_cases s <;> exact ⟨_, _, ht⟩

theorem engineEffect_completes {s t : State} (ht : EngineEffect s t) (hb : s.busy = true)
    (hop : decodeOp s.cmd ≠ .ok .cycle) : ∃ c u, t = complete c u := by
  cases ht with
  | idle hidle => exact absurd hb (by simp [hidle])
  | operation _ i hi _ ht => exact execEffect_completes ht fun hcycle => hop (hcycle ▸ hi)
  | illegal _ _ _ _ => exact ⟨_, _, rfl⟩

/-- Settles O34: an operation's step is its end, and a CYCLE has two steps or five, by its read. -/
theorem operationsEndInBoundedSteps : Obligations.OperationsEndInBoundedSteps := by
  constructor
  · intro s hinv hb hop
    obtain ⟨t, ht⟩ := engineStep_next_of_inv hinv
    obtain ⟨_, _, rfl⟩ := engineEffect_completes (engineStep_effect ht) hb hop
    exact ⟨_, ht, rfl, rfl, rfl⟩
  · intro s hb hop hs hready
    cases hread : readAnswer s with
    | err => exact ⟨2, _, by decide, engineSteps_cycle_err hb hop hs hready hread, rfl, rfl, rfl⟩
    | bytes bs =>
      have hrun := engineSteps_cycle_bytes hb hop hs hready hread
      obtain ⟨_, _, hend⟩ := cycleWrite_completes (writeEntered bs s)
      rw [hend] at hrun
      exact ⟨5, _, le_rfl, hrun, rfl, rfl, rfl⟩

/-! ### What a whole CYCLE delivers and sends (R187-R190) -/

/-- The first of the listed answers is the answer of a read, and 255 bytes are not cut (R171; log 4). -/
theorem readAnswer_of_listed {s : State} {bs : List Byte} {rs : List ReadAnswer} (hlen : bs.length ≤ 255)
    (h : s.port.reads = .bytes bs :: rs) : readAnswer s = .bytes bs := by
  rw [readAnswer, h, List.headD_cons, boundRead, Config.rxCap, List.take_of_length_le hlen]

/-- The first of the listed answers is the answer of a write (R172; log 5). -/
theorem writeAnswer_of_listed {s : State} {ans : WriteAnswer} {ws : List WriteAnswer}
    (h : s.port.writes = ans :: ws) : writeAnswer s = ans := by
  rw [writeAnswer, h, List.headD_cons]

/-- CYCLE's ENCODE step leaves RX as it was (R60, R189). -/
theorem rxSpan_cycleEncode (s : State) {o n : Nat} (h : o + n ≤ 256) :
    rxSpan (cycleEncode s) o n = rxSpan s o n :=
  rxSpan_congr fun _ _ => regionByte_encodeShadow (s := s) (by omega)

/-- CYCLE's ENCODE step leaves the frame of the shadow command in TX (R189). -/
theorem txSpan_cycleEncode (s : State) :
    txSpan (cycleEncode s) 14 = encodeCommand s.shadowPitch s.shadowYaw s.shadowDistance :=
  txSpan_encodeShadow s

theorem telemetryRecord_cycleEncode (s : State) : telemetryRecord (cycleEncode s) = telemetryRecord s := by
  simp [telemetryRecord]

/-- CYCLE's SCAN step commits the scan's answer (R188). -/
theorem cycleScan_some {s : State} {i : Nat} (h : scan (validRx s) = some i) :
    (cycleScan s).frameValid = true ∧
    telemetryRecord (cycleScan s) = (telemetryOf (window (validRx s) i), BitVec.ofNat 8 i) := by
  rw [cycleScan, scanCommit, h]
  exact ⟨rfl, rfl⟩

/-- Without an answer of the scan CYCLE's SCAN step leaves the telemetry registers as they are (R188). -/
theorem cycleScan_none {s : State} (h : scan (validRx s) = none) :
    (cycleScan s).frameValid = s.frameValid ∧ telemetryRecord (cycleScan s) = telemetryRecord s := by
  rw [cycleScan, scanCommit_none h]
  exact ⟨rfl, rfl⟩

section
variable (bs : List Byte) (s : State)

/-- ENCODE leaves the frame of the command latched at the gate in TX (R186, R189). -/
theorem txSpan_writeEntered :
    txSpan (writeEntered bs s) 14 = encodeCommand s.cmdPitch s.cmdYaw s.cmdDistance := by
  rw [writeEntered, txSpan_cycleEncode, cycleScan_shadowPitch, cycleScan_shadowYaw, cycleScan_shadowDistance]
  rfl

theorem txLen_writeEntered : (writeEntered bs s).txLen = 14#8 := by
  rw [writeEntered, cycleEncode_txLen]

/-- READY was consumed at the gate and CDONE raised in SCAN (R186, R188). -/
theorem tokens_writeEntered : (writeEntered bs s).ready = false ∧ (writeEntered bs s).cdone = true := by
  rw [writeEntered, cycleEncode_ready, cycleScan_ready, cycleEncode_cdone, cycleScan_cdone]
  exact ⟨rfl, rfl⟩

/-- The gate and the read leave the telemetry registers as they are (R186, R187). -/
theorem telemetryRecord_scanEntered : telemetryRecord (scanEntered bs s) = telemetryRecord s := by
  simp [telemetryRecord, scanEntered, gateOpened, readLogged]

theorem port_writeEntered : (writeEntered bs s).port = (readLogged s (.bytes bs)).port := by
  rw [writeEntered, cycleEncode_port, cycleScan_port]
  rfl

variable {bs} (hlen : bs.length ≤ 255)
include hlen

/-- The bytes read are still in RX after ENCODE (R187, R189). -/
theorem rxSpan_writeEntered : rxSpan (writeEntered bs s) 0 bs.length = bs :=
  calc rxSpan (writeEntered bs s) 0 bs.length
    _ = rxSpan (cycleScan (scanEntered bs s)) 0 bs.length := by rw [writeEntered, rxSpan_cycleEncode _ (by omega)]
    _ = rxSpan (scanEntered bs s) 0 bs.length := rxSpan_of_mem (cycleScan_mem _) (cycleScan_resets _) _ _
    _ = bs := rxSpan_takeBytes hlen _

theorem rxLen_writeEntered : (writeEntered bs s).rxLen.toNat = bs.length := by
  rw [writeEntered, cycleEncode_rxLen, cycleScan_rxLen]
  exact rxLen_takeBytes hlen (readLogged (gateOpened s) (.bytes bs))

/-- What CYCLE's SCAN searches is what was read (R28, R187). -/
theorem validRx_scanEntered : validRx (scanEntered bs s) = bs := by
  have hcount : rxCount (scanEntered bs s) = bs.length := rxLen_takeBytes hlen (readLogged (gateOpened s) (.bytes bs))
  rw [validRx, hcount]
  exact rxSpan_takeBytes hlen _

/-- The scan's answer is committed (R188), and ENCODE leaves the commit as it is. -/
theorem telemetry_writeEntered_frame {i : Nat} (h : scan bs = some i) :
    (writeEntered bs s).frameValid = true ∧
    telemetryRecord (writeEntered bs s) = (telemetryOf (window bs i), BitVec.ofNat 8 i) := by
  rw [← validRx_scanEntered s hlen] at h
  obtain ⟨hvalid, hrecord⟩ := cycleScan_some h
  rw [writeEntered, cycleEncode_frameValid, telemetryRecord_cycleEncode, hrecord, validRx_scanEntered s hlen]
  exact ⟨hvalid, rfl⟩

/-- Without an answer of the scan the telemetry registers stay (R188). -/
theorem telemetry_writeEntered_noFrame (h : scan bs = none) :
    (writeEntered bs s).frameValid = s.frameValid ∧
    telemetryRecord (writeEntered bs s) = telemetryRecord s := by
  rw [← validRx_scanEntered s hlen] at h
  obtain ⟨hvalid, hrecord⟩ := cycleScan_none h
  rw [writeEntered, cycleEncode_frameValid, telemetryRecord_cycleEncode, hvalid, hrecord]
  exact ⟨rfl, telemetryRecord_scanEntered bs s⟩

end

/-- The whole run when the transport answers bytes and `Ok` (R187-R190): the end of the state in WRITE, with the
write of its frame recorded. -/
theorem engineSteps_cycle_ok {s : State} {bs : List Byte} (hb : s.busy = true) (hop : decodeOp s.cmd = .ok .cycle)
    (hs : s.seq = .waitReady) (hready : s.ready = true) (hread : readAnswer s = .bytes bs)
    (hwrite : writeAnswer s = .ok) : engineSteps 5 s =
      .next (complete (if (writeEntered bs s).frameValid = true then .ok else .noFrame)
        (writeLogged (writeEntered bs s) (encodeCommand s.cmdPitch s.cmdYaw s.cmdDistance) .ok)) := by
  have hanswer : writeAnswer (writeEntered bs s) = .ok := by
    rw [writeAnswer, port_writeEntered]
    exact hwrite
  rw [engineSteps_cycle_bytes hb hop hs hready hread, cycleWrite_ok hanswer, txSpan_writeEntered]

/-- Settles O32: the five steps lead to the end of the state in WRITE, in which RX, TX, the port and the telemetry
registers are those of the lemmas above. -/
theorem cycleRunsEndToEnd : Obligations.CycleRunsEndToEnd := by
  intro s bs rs ws hb hop hs hready hfv hlen hreads hwrites
  have hrun := engineSteps_cycle_ok hb hop hs hready (readAnswer_of_listed hlen hreads) (writeAnswer_of_listed hwrites)
  obtain ⟨htaken, hraised⟩ := tokens_writeEntered bs s
  refine ⟨_, hrun, rfl, rfl, rfl, htaken, hraised, rxSpan_writeEntered s hlen, rxLen_writeEntered s hlen,
    fun i hi => ?_, fun hnone => ?_, txSpan_writeEntered bs s, txLen_writeEntered bs s, ?_⟩
  · obtain ⟨hvalid, hrecord⟩ := telemetry_writeEntered_frame s hlen hi
    exact ⟨if_pos hvalid, hvalid, hrecord⟩
  · obtain ⟨hvalid, hrecord⟩ := telemetry_writeEntered_noFrame s hlen hnone
    rw [hfv] at hvalid
    exact ⟨if_neg (Bool.eq_false_iff.1 hvalid), hvalid, hrecord⟩
  · simp [writeLogged, port_writeEntered, readLogged]

end Sys2Proof.Machine
end

section
/-! The handoff tokens (43_session.md R174, R175): which steps raise READY and CDONE, and which clear them. -/

namespace Sys2Proof.Machine

/-- A host write leaves both tokens as they are, or it is a 32-bit write of HANDOFF (R37, R64). -/
theorem writeEffect_tokens {a n : Nat} {v : Word} {s t : State} (hw : WriteEffect a n v s t) :
    (t.ready = s.ready ∧ t.cdone = s.cdone) ∨
    (a = offHandoff ∧ n = 4 ∧ t.ready = (s.ready || v.getLsbD 0) ∧ t.cdone = (s.cdone && !v.getLsbD 1)) := by
  cases hw with
  | handoff ha hn => exact .inr ⟨ha, hn, rfl, rfl⟩
  | _ => exact .inl ⟨rfl, rfl⟩

theorem hostEffect_tokens {s t : State} (ht : HostEffect s t) :
    (t.ready = s.ready ∧ t.cdone = s.cdone) ∨
    ∃ v, s.host.prog[s.host.pc]? = some (.wr32 0x030 v) ∧
      t.ready = (s.ready || v.getLsbD 0) ∧ t.cdone = (s.cdone && !v.getLsbD 1) := by
  cases ht with
  | own _ => exact .inl ⟨rfl, rfl⟩
  | write a n v s' hw hst =>
    obtain hkept | ⟨rfl, rfl, htokens⟩ := writeEffect_tokens hw
    · exact .inl hkept
    · obtain ⟨_, hst⟩ | ⟨h41, _⟩ := hst
      · exact .inr ⟨v, hst, htokens⟩
      · exact absurd h41 (by decide)

/-- An engine step leaves READY as it is, or consumes it at CYCLE's gate (R174, R186). -/
theorem engineEffect_ready {s t : State} (ht : EngineEffect s t) :
    t.ready = s.ready ∨
    (s.busy = true ∧ s.cmd = 7#32 ∧ s.seq = .waitReady ∧ t.seq = .read ∧ t.ready = false) := by
  cases ht with
  | idle _ => exact .inl rfl
  | operation hb i hi _ ht =>
    obtain ⟨-, -, -, -, -, hkeep, -⟩ := operationsKeepOtherRegisters i s t (exec_of_effect ht)
    cases ht with
    | cycleGate hs =>
      obtain ⟨_, hg⟩ | ⟨_, hg⟩ := cycleGate_cases s
      · exact .inl (by rw [hg])
      · exact .inr ⟨hb, eq_encode_of_decodeOp hi, hs, by rw [hg], by rw [hg]⟩
    | _ => exact .inl (hkeep (by simp [*])).1
  | illegal _ _ _ _ => exact .inl rfl

/-- An engine step leaves CDONE as it is, or raises it in CYCLE's SCAN (R175, R188). -/
theorem engineEffect_cdone {s t : State} (ht : EngineEffect s t) :
    t.cdone = s.cdone ∨ (s.busy = true ∧ s.cmd = 7#32 ∧ s.seq = .scan ∧ t.cdone = true) := by
  cases ht with
  | idle _ => exact .inl rfl
  | operation hb i hi _ ht =>
    obtain ⟨-, -, -, -, -, -, hkeep, -⟩ := operationsKeepOtherRegisters i s t (exec_of_effect ht)
    cases ht with
    | cycleScan hs => exact .inr ⟨hb, eq_encode_of_decodeOp hi, hs, cycleScan_cdone s⟩
    | _ => exact .inl (hkeep (by simp [*]))
  | illegal _ _ _ _ => exact .inl rfl

/-- READY after a step: as before, raised by the host's write of HANDOFF, or cleared at CYCLE's gate or by a reset. -/
theorem step_ready {s t : State} (hstep : step s = .next t) :
    t.ready = s.ready ∨
    (t.ready = true ∧
      nextTurn s = .host ∧ ∃ v, s.host.prog[s.host.pc]? = some (.wr32 0x030 v) ∧ v.getLsbD 0 = true) ∨
    (t.ready = false ∧ (nextTurn s = .reset ∨
      (nextTurn s = .engine ∧ s.busy = true ∧ s.cmd = 7#32 ∧ s.seq = .waitReady ∧ t.seq = .read))) := by
  cases step_effect hstep with
  | host hn _ ht =>
    obtain ⟨hkept, -⟩ | ⟨v, hst, hready, -⟩ := hostEffect_tokens ht
    · exact .inl hkept
    · cases hbit : v.getLsbD 0 with
      | false => exact .inl (by rw [hready, hbit, Bool.or_false, takeTurn_ready])
      | true => exact .inr (.inl ⟨by rw [hready, hbit, Bool.or_true], hn, v, hst, hbit⟩)
  | engine hn _ ht =>
    obtain hkept | ⟨hb, hcmd, hs, ht, hcleared⟩ := engineEffect_ready ht
    · exact .inl hkept
    · exact .inr (.inr ⟨hcleared, .inr ⟨hn, hb, hcmd, hs, ht⟩⟩)
  | reset hn => exact .inr (.inr ⟨rfl, .inl hn⟩)

/-- CDONE after a step: as before, raised in CYCLE's SCAN, or cleared by the host's write of HANDOFF or by a reset. -/
theorem step_cdone {s t : State} (hstep : step s = .next t) :
    t.cdone = s.cdone ∨
    (t.cdone = true ∧ nextTurn s = .engine ∧ s.busy = true ∧ s.cmd = 7#32 ∧ s.seq = .scan) ∨
    (t.cdone = false ∧ (nextTurn s = .reset ∨
      (nextTurn s = .host ∧ ∃ v, s.host.prog[s.host.pc]? = some (.wr32 0x030 v) ∧ v.getLsbD 1 = true))) := by
  cases step_effect hstep with
  | host hn _ ht =>
    obtain ⟨-, hkept⟩ | ⟨v, hst, -, hcdone⟩ := hostEffect_tokens ht
    · exact .inl hkept
    · cases hbit : v.getLsbD 1 with
      | false => exact .inl (by rw [hcdone, hbit, Bool.not_false, Bool.and_true, takeTurn_cdone])
      | true => exact .inr (.inr ⟨by rw [hcdone, hbit, Bool.not_true, Bool.and_false], .inr ⟨hn, v, hst, hbit⟩⟩)
  | engine hn _ ht =>
    obtain hkept | ⟨hb, hcmd, hs, hraised⟩ := engineEffect_cdone ht
    · exact .inl hkept
    · exact .inr (.inl ⟨hraised, hn, hb, hcmd, hs⟩)
  | reset hn => exact .inr (.inr ⟨rfl, .inl hn⟩)

/-- Settles O56: a rise leaves one case of `step_ready` or `step_cdone`, and so does a fall. -/
theorem handoffTokensAreOneWay : Obligations.HandoffTokensAreOneWay := by
  intro s t hstep
  have hready := step_ready hstep
  have hcdone := step_cdone hstep
  refine ⟨fun hs h => ?_, fun hs h => ?_, fun hs h => ?_, fun hs h => ?_⟩
  · simpa [hs, h] using hready
  · simpa [hs, h] using hready
  · simpa [hs, h] using hcdone
  · simpa [hs, h] using hcdone

end Sys2Proof.Machine
end

section
/-! The host and the running operation (43_session.md R194, 70_reset_and_hazards.md R248): what a host step can change
while BUSY = 1. -/

namespace Sys2Proof.Machine

/-- While BUSY = 1 a host write reaches DONE, WR_IGN, the CMD_* registers and the tokens alone (R64, R65). -/
theorem writeEffect_while_busy {a n : Nat} {v : Word} {s t : State} (hw : WriteEffect a n v s t) (hb : s.busy = true) :
    t = { s with done := t.done, wrIgn := t.wrIgn, cmdPitch := t.cmdPitch, cmdYaw := t.cmdYaw,
                 cmdDistance := t.cmdDistance, ready := t.ready, cdone := t.cdone } := by
  have hnot : s.busy ≠ false := by simp [hb]
  cases hw with
  | ignored => rfl
  | busyLocked _ => rfl
  | accepted hidle _ _ => exact absurd hidle hnot
  | status _ _ => rfl
  | arg hidle _ _ => exact absurd hidle hnot
  | rxLen hidle _ => exact absurd hidle hnot
  | command _ _ _ => rfl
  | handoff _ _ => rfl
  | rxBytes hidle _ _ _ => exact absurd hidle hnot

/-- A host step besides changes the host alone (R90). -/
theorem hostEffect_while_busy {s t : State} (ht : HostEffect s t) (hb : s.busy = true) :
    t = { s with done := t.done, wrIgn := t.wrIgn, cmdPitch := t.cmdPitch, cmdYaw := t.cmdYaw,
                 cmdDistance := t.cmdDistance, ready := t.ready, cdone := t.cdone, host := t.host } := by
  cases ht with
  | own _ => rfl
  | write _ _ _ _ hw _ =>
    rw [writeEffect_while_busy hw hb]
    rfl

/-- Settles O57: none of the fields that `hostEffect_while_busy` leaves open is among those of the statement. -/
theorem hostCannotDisturbARunningOperation : Obligations.HostCannotDisturbARunningOperation := by
  intro s t hn hb hstep
  rw [step_host hn] at hstep
  rw [hostEffect_while_busy (hostStep_effect hstep) hb]
  exact ⟨rfl, hb, rfl, rfl, rfl, rfl, rfl, rfl, rfl, rfl, rfl, rfl, rfl, rfl, rfl, rfl⟩

end Sys2Proof.Machine
end

section
/-! The transport port (43_session.md R170-R172, R192): which steps make a request. -/

namespace Sys2Proof.Machine

theorem writeEffect_port {a n : Nat} {v : Word} {s t : State} (hw : WriteEffect a n v s t) : t.port = s.port := by
  cases hw <;> rfl

theorem hostEffect_port {s t : State} (ht : HostEffect s t) : t.port = s.port := by
  cases ht with
  | own _ => rfl
  | write _ _ _ s' hw _ => exact (writeEffect_port hw : s'.port = s.port)

/-- The port after each of the operations' steps: as before, or in READ with one read request recorded, or in WRITE with
one write request (R181, R192). -/
theorem execEffect_port {i : Instr} {s t : State} (ht : ExecEffect s i t) :
    t.port = s.port ∨ (s.seq = .read ∧ t.port = (readLogged s (readAnswer s)).port) ∨
    (s.seq = .write ∧ ∃ bs, t.port = (writeLogged s bs (writeAnswer s)).port) := by
  obtain ⟨-, -, -, -, -, -, -, hkeep⟩ := operationsKeepOtherRegisters i s t (exec_of_effect ht)
  cases ht with
  | rxRead hs =>
    obtain ⟨_, ht⟩ | ⟨_, _, ht⟩ := rxReadStep_cases s <;> exact .inr (.inl ⟨hs, by rw [ht]; rfl⟩)
  | txWrite hs =>
    obtain ⟨_, ht⟩ | ⟨_, _, ht⟩ | ⟨_, _, ht⟩ := txWriteStep_cases s
    · exact .inl (by rw [ht]; rfl)
    · exact .inr (.inr ⟨hs, _, by rw [ht]; rfl⟩)
    · exact .inr (.inr ⟨hs, _, by rw [ht]; rfl⟩)
  | cycleRead hs =>
    obtain ⟨_, ht⟩ | ⟨_, _, ht⟩ := cycleRead_cases s <;> exact .inr (.inl ⟨hs, by rw [ht]; rfl⟩)
  | cycleWrite hs =>
    obtain ⟨_, ht⟩ | ⟨_, ht⟩ := cycleWrite_cases s <;> exact .inr (.inr ⟨hs, _, by rw [ht]; rfl⟩)
  | _ => exact .inl (hkeep (by simp) (by simp) (by simp [*]))

/-- Settles O58: a host step, a reset and the engine's other steps make no request. -/
theorem transportIsUsedInReadAndWriteOnly : Obligations.TransportIsUsedInReadAndWriteOnly := by
  intro s t hstep
  cases step_effect hstep with
  | host _ _ ht => exact .inl (hostEffect_port (s := takeTurn s) ht)
  | engine hn _ ht =>
    cases ht with
    | idle _ => exact .inl rfl
    | operation hb _ _ _ ht => exact (execEffect_port ht).imp_right fun hreq => ⟨hn, hb, hreq⟩
    | illegal _ _ _ _ => exact .inl rfl
  | reset _ => exact .inl rfl

end Sys2Proof.Machine
end

section
/-! How an operation ends (60_exceptions.md R210, R215, R216): which results a step can give, and what it has written by
then. -/

namespace Sys2Proof.Machine

/-- What an engine step makes of an operation in progress: it goes on, it ends with a result that may come after other
writes, it is refused in the state it found, or its read request is answered `Err` (R210, R216). -/
inductive Progress (s : State) : State → Prop where
  | goesOn {t : State} (hb : t.busy = s.busy) : Progress s t
  | ends {c : ResultCode} (hc : c = .ok ∨ c = .noFrame ∨ c = .txTerr) (u : State) : Progress s (complete c u)
  | refused {c : ResultCode} (hc : c = .illegalOp ∨ c = .badArg) : Progress s (complete c s)
  | readFailed : Progress s (complete .rxTerr (readLogged s .err))

theorem scanResult_cases (s : State) : scanResult s = .ok ∨ scanResult s = .noFrame := by
  obtain ⟨hs, _⟩ | ⟨_, hs, _⟩ := scanCommit_cases s
  · exact .inr (scanResult_none hs)
  · exact .inl (scanResult_some hs)

/-- The step of every operation in every state of it: BAD_ARG comes before any write, RX_TERR after the request alone. -/
theorem execEffect_progress {i : Instr} {s t : State} (ht : ExecEffect s i t) : Progress s t := by
  cases ht with
  | nop _ => exact .ends (.inl rfl) _
  | crc8 _ =>
    obtain ⟨_, ht⟩ | ⟨_, ht⟩ := crc8Step_cases s <;> rw [ht]
    · exact .refused (.inr rfl)
    · exact .ends (.inl rfl) _
  | decode _ =>
    obtain ht | ⟨_, _, ht⟩ | ⟨_, _, ht⟩ := decodeStep_cases s <;> rw [ht]
    · exact .refused (.inr rfl)
    · exact .ends (.inl rfl) _
    · exact .ends (.inr (.inl rfl)) _
  | scan _ => exact .ends ((scanResult_cases s).imp_right .inl) _
  | encode _ => exact .ends (.inl rfl) _
  | rxRead _ =>
    obtain ⟨herr, _⟩ | ⟨_, _, ht⟩ := rxReadStep_cases s
    · rw [rxReadStep_err herr]
      exact .readFailed
    · rw [ht]
      exact .ends (.inl rfl) _
  | txWrite _ =>
    obtain ⟨_, ht⟩ | ⟨_, _, ht⟩ | ⟨_, _, ht⟩ := txWriteStep_cases s <;> rw [ht]
    · exact .refused (.inr rfl)
    · exact .ends (.inl rfl) _
    · exact .ends (.inr (.inr rfl)) _
  | cycleGate _ => obtain ⟨_, ht⟩ | ⟨_, ht⟩ := cycleGate_cases s <;> exact .goesOn (by simp [ht])
  | cycleRead _ =>
    obtain ⟨herr, _⟩ | ⟨_, _, ht⟩ := cycleRead_cases s
    · rw [cycleRead_err herr]
      exact .readFailed
    · exact .goesOn (by simp [ht])
  | cycleScan _ => exact .goesOn (cycleScan_busy s)
  | cycleEncode _ => exact .goesOn (cycleEncode_busy s)
  | cycleWrite _ =>
    obtain ⟨_, ht⟩ | ⟨_, ht⟩ := cycleWrite_cases s <;> rw [ht]
    · refine .ends ?_ _
      split
      · exact .inl rfl
      · exact .inr (.inl rfl)
    · exact .ends (.inr (.inr rfl)) _

theorem engineEffect_progress {s t : State} (ht : EngineEffect s t) : Progress s t := by
  cases ht with
  | idle _ => exact .goesOn rfl
  | operation _ _ _ _ ht => exact execEffect_progress ht
  | illegal _ _ _ _ => exact .refused (.inl rfl)

/-- Settles O38: of the ways in which a step ends an operation (`Progress`), only one fits each of these results. -/
theorem errorsArePrecise : Obligations.ErrorsArePrecise := by
  intro s t hb hstep hend
  cases engineEffect_progress (engineStep_effect hstep) with
  | goesOn hkept => exact absurd (hkept.trans hb) (by simp [hend])
  | ends hc _ => obtain rfl | rfl | rfl := hc <;> exact ⟨nofun, nofun⟩
  | refused hc => exact ⟨fun _ => rfl, by obtain rfl | rfl := hc <;> exact nofun⟩
  | readFailed => exact ⟨nofun, fun _ => rfl⟩

end Sys2Proof.Machine
end

section
/-! The busy lock and WR_IGN (60_exceptions.md R213; 20_memory.md R64, R65): the writes that BUSY = 1 turns away, and the
steps that lower the sticky bit. -/

namespace Sys2Proof.Machine

/-! ### The writes turned away -/

section
variable {s : State} {a n : Nat} (hb : s.busy = true) (hadm : admitted a n = true)
include hb hadm

theorem memWrite_busyLocked (hlocked : busyLocked a = true) (hlt : a < 0x100) (v : Word) :
    memWrite s a n v = some (ignoreWrite s) := by
  rw [memWrite, if_pos hadm, if_pos hlt, writeRegister, hlocked, hb]
  rfl

theorem memWrite_rx_busy (ha : isRx a = true) (v : Word) : memWrite s a n v = some (ignoreWrite s) := by
  have hlo : 0x100 ≤ a := not_lt.1 fun h => by simp [isRx_eq_false_iff.2 (.inl h)] at ha
  rw [memWrite_window s v hadm hlo, writeWindow, if_pos ha, if_pos hb]

end

/-! ### WR_IGN as a sticky bit -/

/-- A host write leaves WR_IGN as it is or raises it, or it is a 32-bit write of STATUS (R24, R64). -/
theorem writeEffect_wrIgn {a n : Nat} {v : Word} {s t : State} (hw : WriteEffect a n v s t) :
    t.wrIgn = s.wrIgn ∨ t.wrIgn = true ∨
    (a = offStatus ∧ n = 4 ∧ t.wrIgn = (s.wrIgn && !v.getLsbD 3)) := by
  cases hw with
  | busyLocked _ => exact .inr (.inl rfl)
  | status ha hn => exact .inr (.inr ⟨ha, hn, rfl⟩)
  | _ => exact .inl rfl

theorem hostEffect_lowers_wrIgn {s t : State} (ht : HostEffect s t) (hs : s.wrIgn = true) (h : t.wrIgn = false) :
    ∃ v, s.host.prog[s.host.pc]? = some (.wr32 0x004 v) ∧ v.getLsbD 3 = true := by
  cases ht with
  | own _ => exact absurd h (by simp [hs])
  | write a n v s' hw hst =>
    rw [hostNext_wrIgn] at h
    obtain hkept | hraised | ⟨rfl, rfl, hstatus⟩ := writeEffect_wrIgn hw
    · exact absurd (hkept.symm.trans h) (by simp [hs])
    · exact absurd (hraised.symm.trans h) (by decide)
    · obtain ⟨_, hst⟩ | ⟨h41, _⟩ := hst
      · exact ⟨v, hst, by simpa [hs, h] using hstatus⟩
      · exact absurd h41 (by decide)

theorem engineEffect_wrIgn {s t : State} (ht : EngineEffect s t) : t.wrIgn = s.wrIgn := by
  cases ht with
  | idle _ => rfl
  | operation _ i _ _ ht =>
    obtain ⟨⟨-, hkept, -⟩, -⟩ := operationsKeepOtherRegisters i s t (exec_of_effect ht)
    exact hkept
  | illegal _ _ _ _ => rfl

/-- Settles O47: the locked offsets are three registers and the RX window, and of all steps only the host's write of
STATUS and a reset can lower WR_IGN. -/
theorem busyLockedWritesSetWrIgn : Obligations.BusyLockedWritesSetWrIgn := by
  constructor
  · intro s a n v hb hadm ha
    obtain rfl | rfl | rfl | ⟨hlo, hhi⟩ := ha
    · exact memWrite_busyLocked hb hadm rfl (by decide) v
    · exact memWrite_busyLocked hb hadm rfl (by decide) v
    · exact memWrite_busyLocked hb hadm rfl (by decide) v
    · exact memWrite_rx_busy hb hadm (by simp [isRx, hlo, hhi]) v
  · intro s t hstep hs h
    cases step_effect hstep with
    | host hn _ ht => exact .inr ⟨hn, hostEffect_lowers_wrIgn (s := takeTurn s) ht hs h⟩
    | engine _ _ ht => exact absurd ((engineEffect_wrIgn ht).symm.trans h) (by simp [hs])
    | reset hn => exact .inl hn

end Sys2Proof.Machine
end

section
/-! The command latch as a separation of CMD_* and the shadow command (10_state.md R43; 70_reset_and_hazards.md R249): the
engine's step under another command and another shadow command. -/

namespace Sys2Proof.Machine

/-- The state with other words in CMD_PITCH, CMD_YAW, CMD_DISTANCE and in the shadow command. -/
def withCommands (posted shadow : CommandFrame) (s : State) : State :=
  { s with
    cmdPitch := posted.pitch, cmdYaw := posted.yaw, cmdDistance := posted.distance
    shadowPitch := shadow.pitch, shadowYaw := shadow.yaw, shadowDistance := shadow.distance }

/-- What CMD_* hold. -/
def postedCommand (s : State) : CommandFrame := ⟨s.cmdPitch, s.cmdYaw, s.cmdDistance⟩

/-- What the shadow command holds. -/
def shadowCommand (s : State) : CommandFrame := ⟨s.shadowPitch, s.shadowYaw, s.shadowDistance⟩

/-! ### Steps that read neither command -/

section
variable (posted shadow : CommandFrame) (s : State)

theorem crc8Step_withCommands :
    crc8Step (withCommands posted shadow s) = withCommands posted shadow (crc8Step s) := by
  obtain hout | hin := Nat.lt_or_ge (rxCount s) (operandOffset s + operandLength s)
  · rw [crc8Step_outside hout]
    exact crc8Step_outside (s := withCommands posted shadow s) hout
  · rw [crc8Step_inside hin]
    exact crc8Step_inside (s := withCommands posted shadow s) hin

theorem decodeStep_withCommands :
    decodeStep (withCommands posted shadow s) = withCommands posted shadow (decodeStep s) := by
  obtain hout | hin := Nat.lt_or_ge (rxCount s) (operandOffset s + 13)
  · rw [decodeStep_outside hout]
    exact decodeStep_outside (s := withCommands posted shadow s) hout
  · rw [decodeStep_inside hin, decodeStep_inside (s := withCommands posted shadow s) hin,
      show decodeSpan (withCommands posted shadow s) = decodeSpan s from rfl]
    cases decodeTelemetry (decodeSpan s) <;> rfl

theorem scanCommit_withCommands :
    scanCommit (withCommands posted shadow s) = withCommands posted shadow (scanCommit s) := by
  cases h : scan (validRx s) with
  | none => rw [scanCommit_none h, scanCommit_none (s := withCommands posted shadow s) h]
  | some i =>
    rw [scanCommit_some h, scanCommit_some (s := withCommands posted shadow s) h]
    rfl

theorem rxReadStep_withCommands :
    rxReadStep (withCommands posted shadow s) = withCommands posted shadow (rxReadStep s) := by
  cases h : readAnswer s with
  | err =>
    rw [rxReadStep_err h]
    exact rxReadStep_err (s := withCommands posted shadow s) h
  | bytes bs =>
    rw [rxReadStep_bytes h]
    exact rxReadStep_bytes (s := withCommands posted shadow s) h

theorem txWriteStep_withCommands :
    txWriteStep (withCommands posted shadow s) = withCommands posted shadow (txWriteStep s) := by
  by_cases hlen : s.txLen = 0#8
  · rw [txWriteStep_empty hlen]
    exact txWriteStep_empty (s := withCommands posted shadow s) hlen
  · cases h : writeAnswer s with
    | ok =>
      rw [txWriteStep_ok hlen h]
      exact txWriteStep_ok (s := withCommands posted shadow s) hlen h
    | err _ =>
      rw [txWriteStep_err hlen h]
      exact txWriteStep_err (s := withCommands posted shadow s) hlen h

theorem cycleRead_withCommands :
    cycleRead (withCommands posted shadow s) = withCommands posted shadow (cycleRead s) := by
  cases h : readAnswer s with
  | err =>
    rw [cycleRead_err h]
    exact cycleRead_err (s := withCommands posted shadow s) h
  | bytes bs =>
    rw [cycleRead_bytes h]
    exact cycleRead_bytes (s := withCommands posted shadow s) h

theorem cycleScan_withCommands :
    cycleScan (withCommands posted shadow s) = withCommands posted shadow (cycleScan s) := by
  rw [cycleScan, scanCommit_withCommands]
  rfl

theorem cycleWrite_withCommands :
    cycleWrite (withCommands posted shadow s) = withCommands posted shadow (cycleWrite s) := by
  cases h : writeAnswer s with
  | ok =>
    rw [cycleWrite_ok h]
    exact cycleWrite_ok (s := withCommands posted shadow s) h
  | err _ =>
    rw [cycleWrite_err h]
    exact cycleWrite_err (s := withCommands posted shadow s) h

end

/-- Only the gate of CYCLE reads CMD_* (R186), and only an encode step the shadow command (R127, R189). -/
theorem execEffect_withCommands {i : Instr} {s t : State} (ht : ExecEffect s i t) (hencode : i ≠ .encode)
    (hcycle : i = .cycle → s.seq ≠ .waitReady ∧ s.seq ≠ .encode) (posted shadow : CommandFrame) :
    ExecEffect (withCommands posted shadow s) i (withCommands posted shadow t) := by
  cases ht with
  | nop hs => exact .nop hs
  | crc8 hs =>
    rw [← crc8Step_withCommands]
    exact .crc8 hs
  | decode hs =>
    rw [← decodeStep_withCommands]
    exact .decode hs
  | scan hs =>
    have hstep := ExecEffect.scan (s := withCommands posted shadow s) hs
    rw [scanCommit_withCommands] at hstep
    exact hstep
  | encode _ => exact absurd rfl hencode
  | rxRead hs =>
    rw [← rxReadStep_withCommands]
    exact .rxRead hs
  | txWrite hs =>
    rw [← txWriteStep_withCommands]
    exact .txWrite hs
  | cycleGate hs => exact absurd hs (hcycle rfl).1
  | cycleRead hs =>
    rw [← cycleRead_withCommands]
    exact .cycleRead hs
  | cycleScan hs =>
    rw [← cycleScan_withCommands]
    exact .cycleScan hs
  | cycleEncode hs => exact absurd hs (hcycle rfl).2
  | cycleWrite hs =>
    rw [← cycleWrite_withCommands]
    exact .cycleWrite hs

/-! ### One of the two commands replaced -/

theorem postedCommand_of_exec {i : Instr} {s t : State} (h : exec i s = .next t) : postedCommand t = postedCommand s := by
  obtain ⟨⟨-, -, -, -, hpitch, hyaw, hdistance, -⟩, -⟩ := operationsKeepOtherRegisters i s t h
  rw [postedCommand, hpitch, hyaw, hdistance, postedCommand]

theorem shadowCommand_of_exec {i : Instr} {s t : State} (h : exec i s = .next t)
    (hgate : i = .cycle → s.seq ≠ .waitReady) : shadowCommand t = shadowCommand s := by
  obtain ⟨-, -, -, -, -, hshadow, -⟩ := operationsKeepOtherRegisters i s t h
  obtain ⟨-, hpitch, hyaw, hdistance⟩ := hshadow hgate
  rw [shadowCommand, hpitch, hyaw, hdistance, shadowCommand]

/-- Past the gate no step reads CMD_*: an encode step takes the shadow command (R43, R249). -/
theorem exec_with_posted {i : Instr} {s t : State} (h : exec i s = .next t)
    (hgate : i = .cycle → s.seq ≠ .waitReady) (posted : CommandFrame) :
    exec i (withCommands posted (shadowCommand s) s) = .next (withCommands posted (shadowCommand t) t) := by
  by_cases hencode : i = .encode ∨ (i = .cycle ∧ s.seq = .encode)
  · obtain rfl | ⟨rfl, hseq⟩ := hencode
    · cases exec_effect h with
      | encode hs => exact exec_encode_next (s := withCommands posted (shadowCommand s) s) hs
    · obtain rfl : cycleEncode s = t := by injection (exec_cycleEncode_next hseq).symm.trans h
      exact exec_cycleEncode_next (s := withCommands posted (shadowCommand s) s) hseq
  · rw [not_or, not_and] at hencode
    obtain ⟨hop, hcycle⟩ := hencode
    rw [shadowCommand_of_exec h hgate]
    exact exec_of_effect
      (execEffect_withCommands (exec_effect h) hop (fun hi => ⟨hgate hi, hcycle hi⟩) posted (shadowCommand s))

/-- An operation other than ENCODE and CYCLE reads no shadow command (R43, R127). -/
theorem exec_with_shadow {i : Instr} {s t : State} (h : exec i s = .next t) (hencode : i ≠ .encode)
    (hcycle : i ≠ .cycle) (shadow : CommandFrame) :
    exec i (withCommands (postedCommand s) shadow s) = .next (withCommands (postedCommand t) shadow t) := by
  rw [postedCommand_of_exec h]
  exact exec_of_effect
    (execEffect_withCommands (exec_effect h) hencode (fun hi => absurd hi hcycle) (postedCommand s) shadow)

/-- The open gate overwrites the whole shadow command (R43, R186). -/
theorem cycleGate_with_shadow {s : State} (hready : s.ready = true) (shadow : CommandFrame) :
    cycleGate (withCommands (postedCommand s) shadow s) = cycleGate s := by
  rw [cycleGate_open hready]
  exact cycleGate_open (s := withCommands (postedCommand s) shadow s) hready

/-- Settles O35: each clause replaces one of the two commands and keeps the other (`withCommands`). -/
theorem latchSeparatesCommandAndShadow : Obligations.LatchSeparatesCommandAndShadow := by
  refine ⟨fun i s t p y d hgate h => exec_with_posted h hgate ⟨p, y, d⟩, fun s t p y d hseq hready h => ?_,
    fun i s t p y d hencode hcycle h => exec_with_shadow h hencode hcycle ⟨p, y, d⟩⟩
  rw [← h, exec_cycleGate_next hseq, ← cycleGate_with_shadow hready ⟨p, y, d⟩]
  exact exec_cycleGate_next (s := withCommands (postedCommand s) ⟨p, y, d⟩ s) hseq

end Sys2Proof.Machine
end
